-- ==== Sys2Proof/Word.lean ====
section
/-! DEFINITION. The words of the block: bytes and the 32-bit timeout value (00_scope.md R12).
Every value is unsigned. -/

namespace Sys2Proof

/-- A byte, 0 to 255 (00_scope.md R12). -/
abbrev Byte := BitVec 8

/-- A 32-bit unsigned value: the width of `TIMEOUT` (10_state.md R27). -/
abbrev Word32 := BitVec 32

end Sys2Proof
end

