-- ==== Sys2Proof/Config.lean ====
section
/-! DEFINITION. The parameters of the block (00_scope.md R9, 30_encoding.md R89) and the values the spec leaves
unspecified. The parameters are fields of a record that every operation reads from the state it is given, so a
statement about every state is a statement about every value of every parameter (assumption 1). -/

namespace Sys2Proof

/-- The implementation parameters of the block (00_scope.md R9) and the open command codes (30_encoding.md R89). -/
structure Config where
  /-- `ACK_PATTERN`. -/
  ackPattern : List Byte
  /-- `POSTAMBLE`. -/
  postamble : List Byte
  /-- `BUF_CAP`. -/
  bufCap : Nat
  /-- `TIMEOUT_DEFAULT`. -/
  timeoutDefault : Word32
  /-- `CODE_SET_COMMAND_TYPE`. -/
  codeSetCommandType : Byte
  /-- `CODE_GET_FIRMWARE_VERSION`. -/
  codeGetFirmwareVersion : Byte
  /-- `CODE_GET_PD_DATA_VERSION`. -/
  codeGetPDDataVersion : Byte
  /-- `CODE_SWITCH_RF`. -/
  codeSwitchRF : Byte
  /-- `CODE_IN_SET_RF`. -/
  codeInSetRF : Byte
  /-- `CODE_IN_SET_PROTOCOL`. -/
  codeInSetProtocol : Byte
  /-- `CODE_IN_COMM_RF`. -/
  codeInCommRF : Byte
  deriving DecidableEq, Repr

/-- The constraints of 00_scope.md R9: `1 <= A <= BUF_CAP` and `BUF_CAP >= 6`. -/
abbrev Config.Ok (c : Config) : Prop :=
  1 ≤ c.ackPattern.length ∧ c.ackPattern.length ≤ c.bufCap ∧ 6 ≤ c.bufCap

/-- `TIMEOUT_DEFAULT` is OPEN: the spec gives it no default (R9, D13). DESIGN CHOICE (assumption 2), safe: a
constant with no body, so nothing can be proved about its value. -/
opaque Config.timeoutOpen : Word32

/-- The byte an 8-bit register holds after the operation `RESET` has made it unspecified (43_host_port_ops.md R176).
DESIGN CHOICE (assumption 5), safe: a free value, applied to the counter of values drawn. -/
opaque Config.freeByte : Nat → Byte

/-- The value `RX_N` holds after the operation `RESET` has made it unspecified (43_host_port_ops.md R176).
DESIGN CHOICE (assumption 5), safe: a free value, applied to the counter of values drawn. -/
opaque Config.freeCount : Nat → Nat

end Sys2Proof
end

