-- ==== Sys2Proof/Machine/Defaults.lean ====
section
/-! DEFINITION. The defaults the spec uses in every worked example (00_scope.md R9; 93_implementation_defined.md
G1, G2, G3). -/

namespace Sys2Proof.Machine

/-- The default of `ACK_PATTERN` (00_scope.md R9, G1). PRESUMED (assumption 1), unsafe only for a claim about this
one configuration. -/
def defaultAckPattern : List Byte := [0x00, 0x00, 0xFF, 0x00, 0xFF, 0x00]

/-- The default of `POSTAMBLE` (00_scope.md R9, G2). PRESUMED (assumption 1), unsafe only for a claim about this one
configuration. -/
def defaultPostamble : List Byte := [0x00]

/-- The parameters at their defaults; `TIMEOUT_DEFAULT` has none (R9) and is the open constant. The command codes
are those of 93_implementation_defined.md G3: PRESUMED (assumption 3), unsafe only for a claim about this one
configuration. -/
def defaultConfig : Config where
  ackPattern := defaultAckPattern
  postamble := defaultPostamble
  bufCap := 255
  timeoutDefault := Config.timeoutOpen
  codeSetCommandType := 0x2A
  codeGetFirmwareVersion := 0x20
  codeGetPDDataVersion := 0x22
  codeSwitchRF := 0x06
  codeInSetRF := 0x00
  codeInSetProtocol := 0x02
  codeInCommRF := 0x04

end Sys2Proof.Machine
end

