-- ==== Sys2Proof/Machine/Flags.lean ====
section
/-! DEFINITION. The arithmetic laws and the comparisons of the block (00_scope.md R13, R18; 30_encoding.md R82;
42_engine_send.md R153). None of them is stored as a flag (10_state.md R26). -/

namespace Sys2Proof.Machine

/-- `sum8(s)`: the sum of the bytes, modulo 256; 0 for the empty sequence (00_scope.md R13). -/
def sum8 (s : List Byte) : Byte := BitVec.ofNat 8 (s.map BitVec.toNat).sum

/-- `neg8(v) = (0x100 - v) mod 256` (00_scope.md R13, D11). -/
def neg8 (v : Byte) : Byte := BitVec.ofNat 8 (0x100 - v.toNat)

/-- `inc8(v) = (v + 1) mod 256` (00_scope.md R13, D10). -/
def inc8 (v : Byte) : Byte := BitVec.ofNat 8 (v.toNat + 1)

/-- Relation 1: `(LEN + LCS) mod 256 == 0` (00_scope.md R18). -/
def relation1 (len lcs : Byte) : Bool := (len.toNat + lcs.toNat) % 256 == 0

/-- Relation 2: `(sum of payload bytes + DCS) mod 256 == 0` (00_scope.md R18, 90_conflicts.md C1). -/
def relation2 (payload : List Byte) (dcs : Byte) : Bool := ((sum8 payload).toNat + dcs.toNat) % 256 == 0

/-- The direction byte of a frame from host to device (00_scope.md R10). -/
def dirTx : Byte := 0xD6

/-- The direction byte of a frame from device to host (00_scope.md R10). -/
def dirRx : Byte := 0xD7

/-- `Correlates(p, c)`: `|p| >= 2 and p[0] == 0xD7 and p[1] == inc8(c)` (42_engine_send.md R153). -/
def correlates (p : List Byte) (c : Byte) : Bool :=
  match p with
  | p0 :: p1 :: _ => p0 == dirRx && p1 == inc8 c
  | _ => false

end Sys2Proof.Machine
end

