-- ==== Sys2Proof/Syntax.lean ====
section
/-! DEFINITION. The syntax: the decoder's verdicts, what is presented at each port, and `Instr`, one constructor per
row of spec/opcode_table.json. -/

namespace Sys2Proof

/-- The source's `Frame`: the verdict of `DECODE` (41_codec_decode.md R115). -/
inductive Frame where
  | ack
  | response (payload : List Byte)
  | malformed
  deriving DecidableEq, Repr

/-- One transaction at the host port: `OPSEL` and the operands of the four operations (43_host_port_ops.md R170,
R171). An operation reads its own operands; the others are don't-care. `n` is the length of `data`. DESIGN CHOICE
(assumption 12), safe: the spec gives no byte layout of a host transaction (D2), so none is invented. -/
structure HostTxn where
  opsel : Byte
  code : Byte
  data : List Byte
  t : Word32
  deriving DecidableEq, Repr

/-- An encoded word at one of the block's ports. -/
inductive PortWord where
  /-- A transaction at the host port (43_host_port_ops.md R170). -/
  | host (t : HostTxn)
  /-- A buffer the Transport returned for a read (20_memory.md R53). -/
  | rx (b : List Byte)
  /-- A frame handed to the Transport for a write (20_memory.md R52). -/
  | tx (f : List Byte)
  deriving DecidableEq, Repr

/-- One constructor per row of spec/opcode_table.json. -/
inductive Instr where
  /-- Row `ACK`: `ACK_PATTERN`, then `rest` (41_codec_decode.md R117). -/
  | ack (rest : List Byte)
  /-- Row `CMD`: the normal frame with direction byte `D6` (30_encoding.md R71, 40_codec_encode.md R100). -/
  | cmd (code : Byte) (data : List Byte)
  /-- Row `RSP`: a checksum-valid normal frame with `payload`, then `rest` (41_codec_decode.md R123). -/
  | rsp (payload rest : List Byte)
  /-- Row `MALFORMED`: any other buffer (41_codec_decode.md R126). -/
  | malformed (b : List Byte)
  /-- Row `SEND`, `OPSEL` 1 (42_engine_send.md R135). -/
  | send (code : Byte) (data : List Byte)
  /-- Row `SETTO`, `OPSEL` 2 (43_host_port_ops.md R172). -/
  | setto (t : Word32)
  /-- Row `RDRES`, `OPSEL` 3 (43_host_port_ops.md R174). -/
  | rdres
  /-- Row `RESET`, `OPSEL` 4 (43_host_port_ops.md R176). -/
  | reset
  /-- Row `ENCODE`: the Codec's function unit evaluated on its own (40_codec_encode.md R100, 30_encoding.md R91). -/
  | encode (code : Byte) (data : List Byte)
  /-- Row `DECODE`: the Codec's function unit evaluated on its own (41_codec_decode.md R116, 30_encoding.md R91). -/
  | decode (b : List Byte)
  /-- Row `CMD.set-command-type` (30_encoding.md R89). -/
  | cmdSetCommandType (data : List Byte)
  /-- Row `CMD.get-firmware-version` (30_encoding.md R89). -/
  | cmdGetFirmwareVersion (data : List Byte)
  /-- Row `CMD.get-PD-data-version` (30_encoding.md R89). -/
  | cmdGetPDDataVersion (data : List Byte)
  /-- Row `CMD.switch-RF` (30_encoding.md R89). -/
  | cmdSwitchRF (data : List Byte)
  /-- Row `CMD.in-set-RF` (30_encoding.md R89). -/
  | cmdInSetRF (data : List Byte)
  /-- Row `CMD.in-set-protocol` (30_encoding.md R89). -/
  | cmdInSetProtocol (data : List Byte)
  /-- Row `CMD.in-comm-RF` (30_encoding.md R89). -/
  | cmdInCommRF (data : List Byte)
  deriving DecidableEq, Repr

end Sys2Proof
end

