-- ==== Sys2Proof/Machine/Operands.lean ====
section
/-! DEFINITION. The forms of the frames, byte by byte, and the two functions of the Codec: `ENCODE`
(40_codec_encode.md R100) and `DECODE` (41_codec_decode.md R116). Both are pure (00_scope.md R8). -/

namespace Sys2Proof.Machine

/-- `PREAMBLE` (00_scope.md R10). -/
def preamble : List Byte := [0x00, 0x00, 0xFF]

/-- `MAX_DATA` (00_scope.md R11). -/
def maxData : Nat := 253

/-- `slice(s, off, n)` (00_scope.md R13). -/
def slice (s : List Byte) (off n : Nat) : List Byte := (s.drop off).take n

/-- `s[i]`, written only where `i < |s|` has been established (00_scope.md R13). -/
def byteAt (s : List Byte) (i : Nat) : Byte := s.getD i 0

/-- A normal frame with the given payload, followed by the bytes `tail`: the postamble on transmit, whatever the
transfer holds on receive (30_encoding.md R71, R76, R77, R78; 20_memory.md R59). -/
def normalFrame (payload tail : List Byte) : List Byte :=
  let len : Byte := BitVec.ofNat 8 payload.length
  let lcs := neg8 len
  let dcs := neg8 (sum8 payload)
  preamble ++ [len] ++ [lcs] ++ payload ++ [dcs] ++ tail

/-- The frame `ENCODE` lays out for operands inside its domain (40_codec_encode.md R100). -/
def commandFrame (c : Config) (code : Byte) (data : List Byte) : List Byte :=
  normalFrame ([dirTx] ++ [code] ++ data) c.postamble

/-- `ENCODE(code, data)`; outside the domain `n <= 253` there is no frame (40_codec_encode.md R100, R101;
assumption 11). -/
def encodeFrame (c : Config) (code : Byte) (data : List Byte) : Option (List Byte) :=
  if data.length ≤ maxData then some (commandFrame c code data) else none

/-- `DECODE(b)`, the checks in the order of 41_codec_decode.md R116. -/
def decodeFrame (c : Config) (b : List Byte) : Frame :=
  let n := b.length
  let a := c.ackPattern.length
  if a ≤ n ∧ slice b 0 a = c.ackPattern then .ack                                      -- R117
  else if n < 5 then .malformed                                                        -- R118
  else if byteAt b 0 ≠ 0x00 ∨ byteAt b 1 ≠ 0x00 ∨ byteAt b 2 ≠ 0xFF then .malformed    -- R119
  else
    let len := byteAt b 3
    let lcs := byteAt b 4
    if relation1 len lcs = false then .malformed                                       -- R120
    else if n < 6 + len.toNat then .malformed                                          -- R121
    else
      let payload := slice b 5 len.toNat
      let dcs := byteAt b (5 + len.toNat)
      if relation2 payload dcs = false then .malformed                                 -- R122
      else .response payload                                                           -- R123

end Sys2Proof.Machine
end

