-- ==== Sys2Proof/WellFormed.lean ====
section
/-! DEFINITION. What makes an instruction well-formed: its operands lie where the spec's encodings can put them. -/

namespace Sys2Proof

open Machine in
/-- The conditions on the operands of each row, for the parameters `c`: a received buffer fits `BUF_CAP`
(20_memory.md R53) and has the verdict its class says (30_encoding.md R84); a command frame carries at most 253 data
bytes (30_encoding.md R76); `SEND` takes any number of data bytes (43_host_port_ops.md R171). -/
def WellFormed (c : Config) : Instr → Bool
  | .ack rest => decide (c.ackPattern.length + rest.length ≤ c.bufCap)
  | .cmd _ data => decide (data.length ≤ maxData)
  | .rsp payload rest =>
    decide (payload.length ≤ 255) && decide (6 + payload.length + rest.length ≤ c.bufCap)
      && !(c.ackPattern.isPrefixOf (normalFrame payload rest))
  | .malformed b => decide (b.length ≤ c.bufCap) && decide (decodeFrame c b = .malformed)
  | .send _ _ => true
  | .setto _ => true
  | .rdres => true
  | .reset => true
  | .encode _ data => decide (data.length ≤ maxData)
  | .decode b => decide (b.length ≤ c.bufCap)
  | .cmdSetCommandType data => decide (data.length ≤ maxData)
  | .cmdGetFirmwareVersion data => decide (data.length ≤ maxData)
  | .cmdGetPDDataVersion data => decide (data.length ≤ maxData)
  | .cmdSwitchRF data => decide (data.length ≤ maxData)
  | .cmdInSetRF data => decide (data.length ≤ maxData)
  | .cmdInSetProtocol data => decide (data.length ≤ maxData)
  | .cmdInCommRF data => decide (data.length ≤ maxData)

end Sys2Proof
end

