-- ==== Sys2Proof/Decode.lean ====
section
/-! DEFINITION. The decoder of each port, total on anything presented there, and after it the encoder.
Received buffers are classified by `DECODE` (30_encoding.md R84); the host port by `OPSEL` (43_host_port_ops.md R170). -/

namespace Sys2Proof

open Machine

/-- Why a word is not an instruction, by name. -/
inductive DecodeError where
  /-- The host port's `OPSEL` is none of 1 to 4 (43_host_port_ops.md R178). -/
  | unknownOpsel (opsel : Byte)
  /-- An outbound transfer is not a frame `ENCODE` produces (20_memory.md R52: the block writes no other). -/
  | notACommandFrame
  deriving DecidableEq, Repr

/-- The operation a host transaction selects (43_host_port_ops.md R170, R178). -/
def decodeHost (t : HostTxn) : Except DecodeError Instr :=
  if t.opsel = 0x01 then .ok (.send t.code t.data)
  else if t.opsel = 0x02 then .ok (.setto t.t)
  else if t.opsel = 0x03 then .ok .rdres
  else if t.opsel = 0x04 then .ok .reset
  else .error (.unknownOpsel t.opsel)

/-- The class of a received buffer and its fields (30_encoding.md R84, R86: total on every buffer). -/
def decodeRx (c : Config) (b : List Byte) : Instr :=
  match decodeFrame c b with
  | .ack => .ack (b.drop c.ackPattern.length)
  | .response p => .rsp p (b.drop (6 + p.length))
  | .malformed => .malformed b

/-- The command an outbound frame carries: exactly the frames of 40_codec_encode.md R100. -/
def decodeTx (c : Config) (f : List Byte) : Except DecodeError Instr :=
  let code := byteAt f 6
  let data := slice f 7 ((byteAt f 3).toNat - 2)
  if encodeFrame c code data = some f then .ok (.cmd code data) else .error .notACommandFrame

/-- The decoder: total on every word of every port. -/
def decode (c : Config) : PortWord → Except DecodeError Instr
  | .host t => decodeHost t
  | .rx b => .ok (decodeRx c b)
  | .tx f => decodeTx c f

/-- The command code a symbolic row stands for, and `none` for every other row (30_encoding.md R89). -/
def symbolicCode (c : Config) : Instr → Option (Byte × List Byte)
  | .cmdSetCommandType data => some (c.codeSetCommandType, data)
  | .cmdGetFirmwareVersion data => some (c.codeGetFirmwareVersion, data)
  | .cmdGetPDDataVersion data => some (c.codeGetPDDataVersion, data)
  | .cmdSwitchRF data => some (c.codeSwitchRF, data)
  | .cmdInSetRF data => some (c.codeInSetRF, data)
  | .cmdInSetProtocol data => some (c.codeInSetProtocol, data)
  | .cmdInCommRF data => some (c.codeInCommRF, data)
  | .ack _ => none
  | .cmd _ _ => none
  | .rsp _ _ => none
  | .malformed _ => none
  | .send _ _ => none
  | .setto _ => none
  | .rdres => none
  | .reset => none
  | .encode _ _ => none
  | .decode _ => none

/-- The row the decoder reads from an instruction's words: a symbolic command is the `CMD` frame with its code, which
"the block does not distinguish ... from any other" (opcode_table.json, 30_encoding.md R80). -/
def canon (c : Config) (i : Instr) : Instr :=
  match symbolicCode c i with
  | some (code, data) => .cmd code data
  | none => i

/-- The encoder, from the frame forms of 30_encoding.md and the operation table of 43_host_port_ops.md R170. The rows
`ENCODE` and `DECODE` have no encoding (opcode_table.json). -/
def encode (c : Config) (i : Instr) : Option PortWord :=
  match canon c i with
  | .ack rest => some (.rx (c.ackPattern ++ rest))
  | .cmd code data => some (.tx (commandFrame c code data))
  | .rsp payload rest => some (.rx (normalFrame payload rest))
  | .malformed b => some (.rx b)
  | .send code data => some (.host ⟨0x01, code, data, 0⟩)
  | .setto t => some (.host ⟨0x02, 0, [], t⟩)
  | .rdres => some (.host ⟨0x03, 0, [], 0⟩)
  | .reset => some (.host ⟨0x04, 0, [], 0⟩)
  | .encode _ _ => none
  | .decode _ => none
  | .cmdSetCommandType _ => none
  | .cmdGetFirmwareVersion _ => none
  | .cmdGetPDDataVersion _ => none
  | .cmdSwitchRF _ => none
  | .cmdInSetRF _ => none
  | .cmdInSetProtocol _ => none
  | .cmdInCommRF _ => none

/-- The low `k` bytes of the number `w`, most significant byte first. -/
def bytesOfNat : Nat → Nat → List Byte
  | 0, _ => []
  | k + 1, w => bytesOfNat k (w / 256) ++ [BitVec.ofNat 8 w]

/-- The port word of a row of spec/opcode_table.json whose bits are `w`. A row of one byte is the `OPSEL` of a host
transaction, its operands zero; a wider row is a received buffer, padded with zeros to `BUF_CAP`. A row is ONE word,
its first byte most significant: the table's `RSP` row writes the bytes `00 00 FF` as the number 0xFF. DEDUCED
(assumption 13), safe. -/
def tableWord (nbits w : Nat) : PortWord :=
  if nbits ≤ 8 then .host ⟨BitVec.ofNat 8 w, 0, [], 0⟩
  else .rx (bytesOfNat ((nbits + 7) / 8) w ++ List.replicate (defaultConfig.bufCap - (nbits + 7) / 8) 0)

/-- The instruction the decoder reads from a row of the table whose bits are `w`, under the default parameters. -/
def decodeTableWord (nbits w : Nat) : Option Instr :=
  match decode defaultConfig (tableWord nbits w) with
  | .ok i => some i
  | .error _ => none

end Sys2Proof
end

