-- ==== Sys2Proof/Machine/State.lean ====
section
/-! DEFINITION. The state of the block (10_state.md R20, R40) as plain data, what it exchanges with the outside
world (00_scope.md R15), the ways a step can stop, and the state after reset (70_reset_and_hazards.md R231). -/

namespace Sys2Proof.Machine

/-- `PHASE`: the position of the Engine in an exchange (10_state.md R22). -/
inductive Phase where
  | idle
  | txWait
  | ackWait
  | rspWait
  deriving DecidableEq, Repr

/-- `RESULT`: the typed outcome of the last completed exchange (10_state.md R25). Codes 10 to 15 are never written. -/
inductive Result where
  | none
  | ok
  | transportWriteError
  | transportReadError
  | timeout
  | badAck
  | unexpectedResponse
  | badResponse
  | mismatch
  | badCommand
  deriving DecidableEq, Repr

/-- One buffer space: pairs of offset and byte, offsets strictly rising. An offset that is not listed has no value
(70_reset_and_hazards.md R231: "unspecified" is "no value"). -/
abbrev Memory := List Host.Cell

/-- The buffer spaces that are state (20_memory.md R50; the transmit frame is none, 10_state.md R36). -/
inductive Space where
  | reqData
  | rspData
  | rxBuf
  deriving DecidableEq, Repr

/-- An event that comes into the block (00_scope.md R15), or that the Host performs on the Transport beside it
(43_host_port_ops.md R179, 70_reset_and_hazards.md R234; assumption 22). Which answer the Transport gives is free
(assumption 9). -/
inductive Input where
  /-- A Host operation presented at the host port. -/
  | host (t : HostTxn)
  /-- The Transport's `TxOk`. -/
  | txOk
  /-- The Transport's `TxErr`. -/
  | txErr
  /-- The Transport's `RxData(b)`. -/
  | rxData (b : List Byte)
  /-- The Transport's `RxTimeout`. -/
  | rxTimeout
  /-- The Transport's `RxErr`. -/
  | rxErr
  /-- The Host opens the Transport (70_reset_and_hazards.md R233, R234). -/
  | transportOpen
  /-- The Host closes the Transport (70_reset_and_hazards.md R234). -/
  | transportClose
  deriving DecidableEq, Repr

/-- What the block gives the outside world (00_scope.md R15, 30_encoding.md R90). -/
inductive Output where
  /-- `TxReq(f)`: one outbound transfer (20_memory.md R52). -/
  | txReq (f : List Byte)
  /-- `RxReq(cap, timeout)`: a request for one inbound transfer (20_memory.md R53). -/
  | rxReq (cap : Nat) (timeout : Word32)
  /-- `Done(r)`, with the result data when `r` is `OK` (60_exceptions.md R212, 30_encoding.md R90). -/
  | done (r : Result) (data : List Byte)
  /-- The Host operation was not accepted (42_engine_send.md R136, 43_host_port_ops.md R170). -/
  | refused
  /-- The tuple `RDRES` returns (43_host_port_ops.md R174). -/
  | results (status : Byte) (timeout : Word32) (rspLen : Byte) (data : List Byte)
  /-- The value of `ENCODE` evaluated on its own (43_host_port_ops.md R180); none outside its domain. -/
  | encoded (f : Option (List Byte))
  /-- The value of `DECODE` evaluated on its own (43_host_port_ops.md R180). -/
  | decoded (f : Frame)
  deriving DecidableEq, Repr

/-- The state of the block. The first ten fields after `cfg` are 10_state.md R20; `cfg`, `inbox`, `emitted` and
`freeCount` are the model's own (assumptions 1, 5, 7, 8). -/
structure State where
  /-- The parameters (00_scope.md R9); no step changes them. -/
  cfg : Config
  /-- `PHASE` (R22). -/
  phase : Phase
  /-- `RESULT` (R25). -/
  result : Result
  /-- `TIMEOUT` (R27). -/
  timeout : Word32
  /-- `REQ_CODE` (R30). -/
  reqCode : Byte
  /-- `REQ_LEN` (R31). -/
  reqLen : Byte
  /-- `REQ_DATA` (R31). -/
  reqData : Memory
  /-- `RSP_LEN` (R33). -/
  rspLen : Byte
  /-- `RSP_DATA` (R33). -/
  rspData : Memory
  /-- `RXBUF` (R34). -/
  rxBuf : Memory
  /-- `RX_N` (R34): wide enough for 0 to `BUF_CAP` (assumption 16). -/
  rxN : Nat
  /-- The events still to come, in order of arrival. -/
  inbox : List Input
  /-- The events the block has emitted, in order. -/
  emitted : List Output
  /-- How many free values have been drawn. -/
  freeCount : Nat
  deriving DecidableEq, Repr

/-- How the machine stops. Both are SAFE: the spec has no such case. -/
inductive Fault where
  /-- An access crosses the end of a buffer space (20_memory.md R50). Raised by `memFill` when a transfer longer than
  `BUF_CAP` is received, which the Transport never returns (10_state.md R34, 20_memory.md R53), and by `memRead`,
  never in a state that meets the invariant. Safe. -/
  | outsideSpace (sp : Space)
  /-- A byte that has no value is read (70_reset_and_hazards.md R231). Raised by `memRead`, never in a state that
  meets the invariant. Safe. -/
  | unwrittenByte (sp : Space)
  deriving DecidableEq, Repr

/-- Why a step has no meaning. -/
inductive Refusal where
  /-- An instruction without a meaning: raised only by an arm of `exec` that rejects its row by name; no arm does. -/
  | notModelled (mnemonic : String)
  deriving DecidableEq, Repr

/-- The machine right after reset (70_reset_and_hazards.md R231): the defaults of the parameters, no event to come,
nothing emitted. `REQ_CODE`, `REQ_LEN` and `RX_N` are unspecified there: DESIGN CHOICE 0 (assumption 4), unsafe. -/
def State.reset : State where
  cfg := defaultConfig
  phase := .idle
  result := .none
  timeout := defaultConfig.timeoutDefault
  reqCode := 0
  reqLen := 0
  reqData := []
  rspLen := 0
  rspData := []
  rxBuf := []
  rxN := 0
  inbox := []
  emitted := []
  freeCount := 0

end Sys2Proof.Machine
end

