-- ==== Sys2Proof/Machine/Ops.lean ====
section
/-! DEFINITION. The named operations: bytes of a buffer space, the primitives `MemRead` and `MemWrite`, `emit`,
`complete` and `raise` (the block's only exception mechanism, 60_exceptions.md R200), and the steps of an exchange
that several events share. -/

namespace Sys2Proof.Machine

/-! ## Numbers of names -/

/-- The number of a phase (10_state.md R22). -/
def phaseBits : Phase → BitVec 2
  | .idle => 0
  | .txWait => 1
  | .ackWait => 2
  | .rspWait => 3

/-- The code of a result (10_state.md R25). -/
def resultBits : Result → BitVec 4
  | .none => 0
  | .ok => 1
  | .transportWriteError => 2
  | .transportReadError => 3
  | .timeout => 4
  | .badAck => 5
  | .unexpectedResponse => 6
  | .badResponse => 7
  | .mismatch => 8
  | .badCommand => 9

/-- `BUSY`, the predicate `PHASE != IDLE` (10_state.md R24). -/
def busy (s : State) : Bool := phaseBits s.phase != 0

/-- `STATUS`: bit 7 `BUSY`, bits 6:4 zero, bits 3:0 `RESULT` (10_state.md R28). -/
def statusByte (s : State) : Byte := BitVec.ofBool (busy s) ++ (0 : BitVec 3) ++ resultBits s.result

/-! ## Bytes of a space -/

/-- The byte at offset `a`, if it has a value. -/
def Memory.read : Memory → Nat → Option Byte
  | [], _ => none
  | (a', v) :: m, a => if a = a' then some v else Memory.read m a

/-- Stores one byte, keeping the offsets strictly rising. -/
def Memory.write : Memory → Nat → Byte → Memory
  | [], a, v => [(a, v)]
  | (a', v') :: m, a, v =>
    if a < a' then (a, v) :: (a', v') :: m
    else if a = a' then (a, v) :: m
    else (a', v') :: Memory.write m a v

/-- Stores the bytes `v` at offsets `off`, `off + 1`, ... -/
def Memory.writeBytes : Memory → Nat → List Byte → Memory
  | m, _, [] => m
  | m, off, b :: v => Memory.writeBytes (Memory.write m off b) (off + 1) v

/-- The `n` bytes at offsets `off .. off+n-1`, if each has a value. -/
def Memory.readBytes (m : Memory) : Nat → Nat → Option (List Byte)
  | _, 0 => some []
  | off, n + 1 =>
    match Memory.read m off, Memory.readBytes m (off + 1) n with
    | some b, some v => some (b :: v)
    | _, _ => none

/-- The canonical form: offsets strictly rising. An unlisted offset has no value, so no entry can equal it. -/
def Memory.wf : Memory → Bool
  | [] => true
  | [_] => true
  | (a, _) :: (a', v') :: m => decide (a < a') && Memory.wf ((a', v') :: m)

/-! ## The buffer spaces -/

/-- The size of a space in bytes (20_memory.md R50; assumption 20). -/
def spaceSize (c : Config) : Space → Nat
  | .reqData => maxData
  | .rspData => c.bufCap - 8
  | .rxBuf => c.bufCap

/-- The contents of a space. -/
def spaceOf (s : State) : Space → Memory
  | .reqData => s.reqData
  | .rspData => s.rspData
  | .rxBuf => s.rxBuf

/-- The state with new contents of a space. -/
def setSpace (sp : Space) (m : Memory) (s : State) : State :=
  match sp with
  | .reqData => { s with reqData := m }
  | .rspData => { s with rspData := m }
  | .rxBuf => { s with rxBuf := m }

/-- `MemRead(space, off, n)` (20_memory.md R50). -/
def memRead (sp : Space) (off n : Nat) (s : State) : Except Fault (List Byte) :=
  if off + n ≤ spaceSize s.cfg sp then
    match Memory.readBytes (spaceOf s sp) off n with
    | some v => .ok v
    | none => .error (.unwrittenByte sp)
  else .error (.outsideSpace sp)

/-- `MemWrite(space, 0, |v|, v)`, the one form of write the block makes (20_memory.md R50). Each such write fills its
space afresh: the bytes at and beyond `|v|` are unspecified after it (10_state.md R31, R33, R34), so none of them is
listed (assumption 6). -/
def memFill (sp : Space) (v : List Byte) (s : State) : Except Fault State :=
  if v.length ≤ spaceSize s.cfg sp then .ok (setSpace sp (Memory.writeBytes [] 0 v) s)
  else .error (.outsideSpace sp)

/-! ## Outcomes and events -/

/-- Goes on with the value of an access, or stops with its fault. -/
def withValue {α : Type} (r : Except Fault α) (k : α → Host.Outcome State Fault Refusal) :
    Host.Outcome State Fault Refusal :=
  match r with
  | .ok v => k v
  | .error e => .fault e

/-- `emit E` (00_scope.md R15). -/
def emit (o : Output) (s : State) : State := { s with emitted := s.emitted ++ [o] }

/-- A Host operation that is not accepted: no state changes (42_engine_send.md R136; 43_host_port_ops.md R170, R173,
R178; assumption 15). -/
def refuse (s : State) : State := emit .refused s

/-- `RSP_LEN <- 0`: every byte of `RSP_DATA` is now at or beyond `RSP_LEN` and so unspecified (10_state.md R33). -/
def clearResponse (s : State) : State := { s with rspLen := 0, rspData := [] }

/-- `complete(r)`: `RESULT <- r; PHASE <- IDLE; emit Done(r)` (00_scope.md R16). -/
def complete (r : Result) (data : List Byte) (s : State) : State :=
  emit (.done r data) { s with result := r, phase := .idle }

/-- `raise X`: `RSP_LEN <- 0; complete(X)` (00_scope.md R16, 60_exceptions.md R200). -/
def raise (x : Result) (s : State) : State := complete x [] (clearResponse s)

/-! ## The steps of an exchange -/

/-- `emit RxReq(BUF_CAP, TIMEOUT)`, then the phase that waits for its answer (42_engine_send.md R139, R145). -/
def requestRead (p : Phase) (s : State) : State :=
  { emit (.rxReq s.cfg.bufCap s.timeout) s with phase := p }

/-- `REQ_CODE <- code; REQ_LEN <- n; MemWrite(REQ_DATA, 0, n, data)` (42_engine_send.md R137, 20_memory.md R65). -/
def latchRequest (code : Byte) (data : List Byte) (s : State) : Except Fault State :=
  memFill .reqData data { s with reqCode := code, reqLen := BitVec.ofNat 8 data.length }

/-- `emit TxReq(ENCODE(REQ_CODE, MemRead(REQ_DATA, 0, REQ_LEN)))`, then `PHASE <- TX_WAIT` (42_engine_send.md R137).
The caller has checked the domain of `ENCODE` (40_codec_encode.md R101). -/
def transmitRequest (s : State) : Host.Outcome State Fault Refusal :=
  withValue (memRead .reqData 0 s.reqLen.toNat s) fun data =>
    .next { emit (.txReq (commandFrame s.cfg s.reqCode data)) s with phase := .txWait }

/-- The step that handles `SEND(code, data)`: refused when busy (42_engine_send.md R136), `BAD_COMMAND` for more than
253 data bytes (R138), else the acceptance (R137). -/
def startExchange (code : Byte) (data : List Byte) (s : State) : Host.Outcome State Fault Refusal :=
  if busy s then .next (refuse s)
  else if data.length > maxData then .next (raise .badCommand s)
  else withValue (latchRequest code data s) fun t => transmitRequest (clearResponse { t with result := .none })

/-- `RX_N <- |b|; RXBUF[0 .. |b|-1] <- b` (10_state.md R34; assumption 10). -/
def storeTransfer (b : List Byte) (s : State) : Except Fault State :=
  memFill .rxBuf b { s with rxN := b.length }

/-- An `RxData(b)` whose verdict leads to `k`. In phases `IDLE` and `TX_WAIT` the event has no transition and changes
nothing (42_engine_send.md R152; assumption 18). -/
def receive (b : List Byte) (s : State)
    (inAckWait inRspWait : State → Host.Outcome State Fault Refusal) : Host.Outcome State Fault Refusal :=
  match s.phase with
  | .idle => .next s
  | .txWait => .next s
  | .ackWait => withValue (storeTransfer b s) inAckWait
  | .rspWait => withValue (storeTransfer b s) inRspWait

/-- `MemWrite(RSP_DATA, 0, L - 2, slice(p, 2, L - 2)); RSP_LEN <- L - 2; complete(OK)` (42_engine_send.md R151). -/
def deliver (p : List Byte) (s : State) : Host.Outcome State Fault Refusal :=
  let data := slice p 2 (p.length - 2)
  withValue (memFill .rspData data s) fun t =>
    .next (complete .ok data { t with rspLen := BitVec.ofNat 8 (p.length - 2) })

end Sys2Proof.Machine
end

