-- ==== Sys2Proof/Machine/Answers.lean ====
section
/-! DEFINITION. The Transport's answers that carry no frame (42_engine_send.md R139 to R142, R146, R147), with their
no-transition pairs (R152), and what the Host does to the Transport beside the block (70_reset_and_hazards.md R234). -/

namespace Sys2Proof.Machine

/-- `TxOk`: the first read (42_engine_send.md R139); no transition outside `TX_WAIT` (R152). -/
def onTxOk (s : State) : State :=
  match s.phase with
  | .txWait => requestRead .ackWait s
  | .idle => s
  | .ackWait => s
  | .rspWait => s

/-- `TxErr`: `raise TRANSPORT_WRITE_ERROR` (42_engine_send.md R140); no transition outside `TX_WAIT` (R152). -/
def onTxErr (s : State) : State :=
  match s.phase with
  | .txWait => raise .transportWriteError s
  | .idle => s
  | .ackWait => s
  | .rspWait => s

/-- A read that ends without data raises `x` in the two reading phases (42_engine_send.md R141, R142, R146, R147);
no transition elsewhere (R152). -/
def readFails (x : Result) (s : State) : State :=
  match s.phase with
  | .ackWait => raise x s
  | .rspWait => raise x s
  | .idle => s
  | .txWait => s

/-- `RxTimeout`: `raise TIMEOUT` (42_engine_send.md R141, R146). -/
def onRxTimeout (s : State) : State := readFails .timeout s

/-- `RxErr`: `raise TRANSPORT_READ_ERROR` (42_engine_send.md R142, R147). -/
def onRxErr (s : State) : State := readFails .transportReadError s

/-- The Host opens the Transport: "The block's state is not affected by close or open" (70_reset_and_hazards.md R234);
the block keeps no bit for it (10_state.md R39). -/
def onTransportOpen (s : State) : State := s

/-- The Host closes the Transport: "The block's state is not affected by close or open" (70_reset_and_hazards.md R234);
what the Transport then discards is its own (10_state.md R38). -/
def onTransportClose (s : State) : State := s

end Sys2Proof.Machine
end

