-- ==== Sys2Proof/Machine/Codec.lean ====
section
/-! DEFINITION. The Codec's two function units evaluated on their own (43_host_port_ops.md R180, 30_encoding.md R91).
They read no state but the parameters and write none; their value is reported as an output of the model
(assumption 11). -/

namespace Sys2Proof.Machine

/-- Row `ENCODE` (40_codec_encode.md R100, R101). -/
def execEncode (code : Byte) (data : List Byte) (s : State) : Host.Outcome State Fault Refusal :=
  .next (emit (.encoded (encodeFrame s.cfg code data)) s)

/-- Row `DECODE` (41_codec_decode.md R115, R116). -/
def execDecode (b : List Byte) (s : State) : Host.Outcome State Fault Refusal :=
  .next (emit (.decoded (decodeFrame s.cfg b)) s)

end Sys2Proof.Machine
end

