-- ==== Sys2Proof/Machine/Commands.lean ====
section
/-! DEFINITION. The meanings of the seven symbolic commands (30_encoding.md R89). "Each is one `SEND` and obeys the
same rules" (44_host_polling_loop.md R193); the code is a parameter, the payload an operand (assumptions 3 and 14). -/

namespace Sys2Proof.Machine

/-- Row `CMD.set-command-type`. -/
def execCmdSetCommandType (data : List Byte) (s : State) : Host.Outcome State Fault Refusal :=
  startExchange s.cfg.codeSetCommandType data s

/-- Row `CMD.get-firmware-version`. -/
def execCmdGetFirmwareVersion (data : List Byte) (s : State) : Host.Outcome State Fault Refusal :=
  startExchange s.cfg.codeGetFirmwareVersion data s

/-- Row `CMD.get-PD-data-version`. -/
def execCmdGetPDDataVersion (data : List Byte) (s : State) : Host.Outcome State Fault Refusal :=
  startExchange s.cfg.codeGetPDDataVersion data s

/-- Row `CMD.switch-RF`. -/
def execCmdSwitchRF (data : List Byte) (s : State) : Host.Outcome State Fault Refusal :=
  startExchange s.cfg.codeSwitchRF data s

/-- Row `CMD.in-set-RF`. -/
def execCmdInSetRF (data : List Byte) (s : State) : Host.Outcome State Fault Refusal :=
  startExchange s.cfg.codeInSetRF data s

/-- Row `CMD.in-set-protocol`. -/
def execCmdInSetProtocol (data : List Byte) (s : State) : Host.Outcome State Fault Refusal :=
  startExchange s.cfg.codeInSetProtocol data s

/-- Row `CMD.in-comm-RF`, the one the Polling Loop sends (44_host_polling_loop.md R186). -/
def execCmdInCommRF (data : List Byte) (s : State) : Host.Outcome State Fault Refusal :=
  startExchange s.cfg.codeInCommRF data s

end Sys2Proof.Machine
end

