-- ==== Sys2Proof/Machine/HostPort.lean ====
section
/-! DEFINITION. The meanings of the host-port operations (43_host_port_ops.md). -/

namespace Sys2Proof.Machine

/-- Row `SEND` (42_engine_send.md R135 to R138; 43_host_port_ops.md R171). -/
def execSend (code : Byte) (data : List Byte) (s : State) : Host.Outcome State Fault Refusal :=
  startExchange code data s

/-- Row `SETTO`: `TIMEOUT <- t` in phase `IDLE` (43_host_port_ops.md R172), else refused (R173). -/
def execSetto (t : Word32) (s : State) : Host.Outcome State Fault Refusal :=
  if busy s then .next (refuse s) else .next { s with timeout := t }

/-- Row `RDRES`: returns `(STATUS, TIMEOUT, RSP_LEN, MemRead(RSP_DATA, 0, RSP_LEN))` and changes nothing
(43_host_port_ops.md R174). -/
def execRdres (s : State) : Host.Outcome State Fault Refusal :=
  withValue (memRead .rspData 0 s.rspLen.toNat s) fun data =>
    .next (emit (.results (statusByte s) s.timeout s.rspLen data) s)

/-- Row `RESET`: the reset values, and the rest unspecified: registers hold free values, buffers no value
(43_host_port_ops.md R176; assumptions 5 and 6). No event is emitted. -/
def execReset (s : State) : Host.Outcome State Fault Refusal :=
  .next { clearResponse s with
    phase := .idle
    result := .none
    timeout := s.cfg.timeoutDefault
    reqCode := Config.freeByte s.freeCount
    reqLen := Config.freeByte (s.freeCount + 1)
    reqData := []
    rxBuf := []
    rxN := Config.freeCount (s.freeCount + 2)
    freeCount := s.freeCount + 3 }

end Sys2Proof.Machine
end

