-- ==== Sys2Proof/Machine/Wire.lean ====
section
/-! DEFINITION. The meanings of the wire frame classes: what the block does with a received buffer of each class
(42_engine_send.md R143 to R152), and with the class it transmits. -/

namespace Sys2Proof.Machine

/-- Row `ACK`: in `ACK_WAIT` the second read (42_engine_send.md R145), in `RSP_WAIT` `MISMATCH` (R149), else no
transition (R152). -/
def execAck (rest : List Byte) (s : State) : Host.Outcome State Fault Refusal :=
  receive (s.cfg.ackPattern ++ rest) s
    (fun t => .next (requestRead .rspWait t))
    (fun t => .next (raise .mismatch t))

/-- Row `CMD`: the step in which the block puts this command frame on the wire, which is the acceptance of a `SEND`
(42_engine_send.md R137; 30_encoding.md R84: "what ENCODE produces"). DEDUCED (assumption 14). -/
def execCmd (code : Byte) (data : List Byte) (s : State) : Host.Outcome State Fault Refusal :=
  startExchange code data s

/-- Row `RSP`: in `ACK_WAIT` `UNEXPECTED_RESPONSE` (42_engine_send.md R144), in `RSP_WAIT` the result (R151) or
`MISMATCH` (R150), else no transition (R152). -/
def execRsp (payload rest : List Byte) (s : State) : Host.Outcome State Fault Refusal :=
  receive (normalFrame payload rest) s
    (fun t => .next (raise .unexpectedResponse t))
    (fun t => if correlates payload t.reqCode then deliver payload t else .next (raise .mismatch t))

/-- Row `MALFORMED`: in `ACK_WAIT` `BAD_ACK` (42_engine_send.md R143), in `RSP_WAIT` `BAD_RESPONSE` (R148), else no
transition (R152). -/
def execMalformed (b : List Byte) (s : State) : Host.Outcome State Fault Refusal :=
  receive b s
    (fun t => .next (raise .badAck t))
    (fun t => .next (raise .badResponse t))

end Sys2Proof.Machine
end

