-- ==== Sys2Proof/Machine/Dispatch.lean ====
section
/-! DEFINITION. The dispatch: one arm per row of spec/opcode_table.json. -/

namespace Sys2Proof.Machine

/-- The meaning of an instruction. -/
def exec (i : Instr) (s : State) : Host.Outcome State Fault Refusal :=
  match i with
  -- wire frame classes
  | .ack rest => Sys2Proof.Machine.execAck rest s
  | .cmd code data => Sys2Proof.Machine.execCmd code data s
  | .rsp payload rest => Sys2Proof.Machine.execRsp payload rest s
  | .malformed b => Sys2Proof.Machine.execMalformed b s
  -- host port
  | .send code data => Sys2Proof.Machine.execSend code data s
  | .setto t => Sys2Proof.Machine.execSetto t s
  | .rdres => Sys2Proof.Machine.execRdres s
  | .reset => Sys2Proof.Machine.execReset s
  -- the Codec's function units
  | .encode code data => Sys2Proof.Machine.execEncode code data s
  | .decode b => Sys2Proof.Machine.execDecode b s
  -- symbolic commands
  | .cmdSetCommandType data => Sys2Proof.Machine.execCmdSetCommandType data s
  | .cmdGetFirmwareVersion data => Sys2Proof.Machine.execCmdGetFirmwareVersion data s
  | .cmdGetPDDataVersion data => Sys2Proof.Machine.execCmdGetPDDataVersion data s
  | .cmdSwitchRF data => Sys2Proof.Machine.execCmdSwitchRF data s
  | .cmdInSetRF data => Sys2Proof.Machine.execCmdInSetRF data s
  | .cmdInSetProtocol data => Sys2Proof.Machine.execCmdInSetProtocol data s
  | .cmdInCommRF data => Sys2Proof.Machine.execCmdInCommRF data s

end Sys2Proof.Machine
end

