-- ==== Sys2Proof/Machine/Fetch.lean ====
section
/-! DEFINITION. Handling one incoming event (00_scope.md R15): the word it carries, if any, is decoded and run. -/

namespace Sys2Proof.Machine

/-- The word an incoming event carries: a Host transaction or a received buffer. -/
def inputWord : Input → Option PortWord
  | .host t => some (.host t)
  | .rxData b => some (.rx b)
  | .txOk => none
  | .txErr => none
  | .rxTimeout => none
  | .rxErr => none
  | .transportOpen => none
  | .transportClose => none

/-- The event that presents a word to the block: a frame fed back to it arrives as any other buffer
(30_encoding.md R84: the class `CMD` "if fed to DECODE ... falls in class `RSP`"). -/
def wordInput : PortWord → Input
  | .host t => .host t
  | .rx b => .rxData b
  | .tx f => .rxData f

/-- The atomic handling of one incoming event. A host word that is no operation is refused and changes nothing
(43_host_port_ops.md R178). -/
def handle (i : Input) (s : State) : Host.Outcome State Fault Refusal :=
  match i with
  | .host t =>
    match decodeHost t with
    | .ok op => exec op s
    | .error _ => .next (refuse s)
  | .rxData b => exec (decodeRx s.cfg b) s
  | .txOk => .next (onTxOk s)
  | .txErr => .next (onTxErr s)
  | .rxTimeout => .next (onRxTimeout s)
  | .rxErr => .next (onRxErr s)
  | .transportOpen => .next (onTransportOpen s)
  | .transportClose => .next (onTransportClose s)

/-- One step: the next incoming event is taken and handled; with none to come the block waits unchanged
(60_exceptions.md R222, 70_reset_and_hazards.md R248; assumption 7). -/
def nextEvent (s : State) : Host.Outcome State Fault Refusal :=
  match s.inbox with
  | [] => .next s
  | i :: later => handle i { s with inbox := later }

end Sys2Proof.Machine
end

