-- ==== Sys2Proof/Machine/Step.lean ====
section
/-! DEFINITION. The step of the machine, and placing an instruction where the step takes its next event. -/

namespace Sys2Proof.Machine

/-- One step: the atomic handling of exactly one incoming event (00_scope.md R15). -/
def step (s : State) : Host.Outcome State Fault Refusal := nextEvent s

/-- The state whose next event presents the word of a row of spec/opcode_table.json with the bits `w`. -/
def State.withFetchWord (s : State) (nbits w : Nat) : State :=
  { s with inbox := wordInput (tableWord nbits w) :: s.inbox }

end Sys2Proof.Machine
end

