-- ==== Sys2Proof/Machine/Polling.lean ====
section
/-! DEFINITION. The host's Polling Loop (44_host_polling_loop.md), the block's only client. It is no part of the block
(00_scope.md R6) and no step of the machine runs it; it is recorded as pure functions, with what the source does not
give as parameters (assumption 17). -/

namespace Sys2Proof.Machine

/-- The parameters of the Host model (44_host_polling_loop.md R187, R190, R191; 91_not_in_source.md N4, N5, N6). -/
structure HostParams where
  /-- The fixed payload of the in-comm-RF command (N4). -/
  pollData : List Byte
  /-- `TYPEF_IDX0` and `TYPEF_IDX1`: where the protocol-ID fields stand (N5). -/
  typeFIdx0 : Nat
  typeFIdx1 : Nat
  /-- `TYPEF_SIG`: the protocol marker and the length marker (N5). -/
  typeFSig0 : Byte
  typeFSig1 : Byte
  /-- `IDM_OFF` (N5); `PMM_OFF = IDM_OFF + 8` (R187). -/
  idmOff : Nat
  /-- Whether the sentinel is matched as a prefix or exactly (N6 leaves it open). -/
  sentinelIsPrefix : Bool
  /-- `MAX_CONSECUTIVE_FAILURES` (R190). -/
  maxConsecutiveFailures : Nat
  /-- The configurable maximum iteration count, if any (R191). -/
  maxIterations : Option Nat
  deriving DecidableEq, Repr

/-- The states of the loop (44_host_polling_loop.md R185); `Found` carries the card identity (R188). -/
inductive LoopState where
  | polling
  | found (idm pmm : List Byte)
  deriving DecidableEq, Repr

/-- The loop between two exchanges. -/
structure HostLoop where
  st : LoopState
  iterations : Nat
  consecutiveFailures : Nat
  deriving DecidableEq, Repr

/-- What the loop does next. -/
inductive LoopAction where
  /-- Present this transaction at the host port (R186). -/
  | submit (t : HostTxn)
  /-- Report the card's two identifiers and stop (R187, R188). -/
  | report (idm pmm : List Byte)
  /-- Stop without a card: cancelled, or the iteration cap is reached (R191). -/
  | stop
  /-- Surface an error after a bounded number of consecutive failures (R190). -/
  | surfaceError
  deriving DecidableEq, Repr

/-- The class of an `OK` result (44_host_polling_loop.md R187). -/
inductive CardClass where
  | noCard
  | typeF (idm pmm : List Byte)
  | other
  deriving DecidableEq, Repr

/-- The "no card" sentinel (44_host_polling_loop.md R187). -/
def noCardSentinel : List Byte := [0x80, 0x00, 0x00, 0x00]

/-- The inter-poll delay in milliseconds, kept by the Host (44_host_polling_loop.md R189). -/
def interPollDelayMs : Nat := 250

/-- Classification of the data of an `OK` result, in the order of 44_host_polling_loop.md R187. A result too short to
hold both identifiers is unrecognised. -/
def classifyResult (p : HostParams) (data : List Byte) : CardClass :=
  if data = noCardSentinel ∨ (p.sentinelIsPrefix = true ∧ noCardSentinel <+: data) then .noCard
  else if data[p.typeFIdx0]? = some p.typeFSig0 ∧ data[p.typeFIdx1]? = some p.typeFSig1
      ∧ p.idmOff + 16 ≤ data.length then
    .typeF (slice data p.idmOff 8) (slice data (p.idmOff + 8) 8)
  else .other

/-- The loop before its first iteration. -/
def loopStart : HostLoop := ⟨.polling, 0, 0⟩

/-- Whether the configurable maximum iteration count, if any, is reached (44_host_polling_loop.md R191;
assumption 23). -/
def capReached (p : HostParams) (l : HostLoop) : Bool :=
  match p.maxIterations with
  | some m => decide (m ≤ l.iterations)
  | none => false

/-- One action of the loop; `cancelled` is checked once per iteration, between exchanges (R186, R190, R191). In `Found`
it reports and stops (R185). DESIGN CHOICE (assumption 21), unsafe for a claim about the loop: the spec does not say which
wins where they coincide, and here cancellation comes before the iteration cap and the cap before the failure bound, so
that a loop stopped by either surfaces no error. DESIGN CHOICE (assumption 23), unsafe for a claim about the loop: the
error is surfaced when the count of consecutive failures reaches the bound, not only when it exceeds it, and the loop stops
when the count of iterations reaches the cap, so that a bound or a cap of 0 is met before any exchange. -/
def loopAction (c : Config) (p : HostParams) (cancelled : Bool) (l : HostLoop) : LoopAction :=
  match l.st with
  | .found idm pmm => .report idm pmm
  | .polling =>
    if cancelled then .stop
    else if capReached p l then .stop
    else if p.maxConsecutiveFailures ≤ l.consecutiveFailures then .surfaceError
    else .submit ⟨0x01, c.codeInCommRF, p.pollData, 0⟩

/-- The loop after `Done`: in `Polling` an `OK` result is classified and any other result is a transient failure
(44_host_polling_loop.md R187, R190); `Found` is terminal (R185). -/
def loopOnDone (p : HostParams) (r : Result) (data : List Byte) (l : HostLoop) : HostLoop :=
  match l.st with
  | .found _ _ => l
  | .polling =>
    if r = .ok then
      match classifyResult p data with
      | .typeF idm pmm => ⟨.found idm pmm, l.iterations + 1, 0⟩
      | .noCard => ⟨.polling, l.iterations + 1, 0⟩
      | .other => ⟨.polling, l.iterations + 1, 0⟩
    else ⟨.polling, l.iterations + 1, l.consecutiveFailures + 1⟩

end Sys2Proof.Machine
end

