-- ==== Sys2Proof/Safety.lean ====
section
/-! DEFINITION. What counts as a safe run: the invariant of the state, and the duty of the Transport on which the
spec relies (20_memory.md R53, R55). -/

namespace Sys2Proof.Machine

/-- A space that holds exactly the offsets `0 .. n-1`. -/
abbrev Memory.Dense (m : Memory) (n : Nat) : Prop := m.map Prod.fst = List.range n

/-- The invariant: the parameters meet their constraints (00_scope.md R9); every space holds a run of bytes from
offset 0 that fits its size (20_memory.md R50), `RSP_DATA` exactly `RSP_LEN` of them (10_state.md R33); only an `OK`
result has data (60_exceptions.md R210); in flight, `RESULT` is `NONE` (43_host_port_ops.md R175) and `REQ_DATA` holds
exactly `REQ_LEN` bytes (10_state.md R31), and the first read's transfer is still in `RXBUF` (10_state.md R34). -/
structure State.Inv (s : State) : Prop where
  cfgOk : s.cfg.Ok
  reqDense : s.reqData.Dense s.reqData.length
  reqFits : s.reqData.length ≤ maxData
  rspDense : s.rspData.Dense s.rspLen.toNat
  rspFits : s.rspLen.toNat ≤ s.cfg.bufCap - 8
  rxDense : s.rxBuf.Dense s.rxBuf.length
  rxFits : s.rxBuf.length ≤ s.cfg.bufCap
  okHasData : s.result ≠ .ok → s.rspLen = 0
  flightResult : s.phase ≠ .idle → s.result = .none
  flightRequest : s.phase ≠ .idle → s.reqLen.toNat = s.reqData.length
  flightTransfer : s.phase = .rspWait → s.rxN = s.rxBuf.length

/-- A transfer no longer than `BUF_CAP`, which the Transport guarantees (10_state.md R34, 20_memory.md R53). -/
abbrev Input.Fits (c : Config) : Input → Prop
  | .rxData b => b.length ≤ c.bufCap
  | .host _ => True
  | .txOk => True
  | .txErr => True
  | .rxTimeout => True
  | .rxErr => True
  | .transportOpen => True
  | .transportClose => True

/-- Whether an event answers the request outstanding in a phase (20_memory.md R55, R62): the write in `TX_WAIT`, a
read in `ACK_WAIT` and `RSP_WAIT`. -/
def answersRequest : Phase → Input → Bool
  | .txWait, .txOk => true
  | .txWait, .txErr => true
  | .ackWait, .rxData _ => true
  | .ackWait, .rxTimeout => true
  | .ackWait, .rxErr => true
  | .rspWait, .rxData _ => true
  | .rspWait, .rxTimeout => true
  | .rspWait, .rxErr => true
  | _, _ => false

/-- Whether an event comes from the Transport (00_scope.md R15). -/
def fromTransport : Input → Bool
  | .host _ => false
  | .txOk => true
  | .txErr => true
  | .rxData _ => true
  | .rxTimeout => true
  | .rxErr => true
  | .transportOpen => false
  | .transportClose => false

/-! ## Relations between the state before a step and the state after it, in which statements are written -/

/-- Everything but `PHASE`, `RESULT`, `RSP_LEN`, `RSP_DATA`, the receive buffer and the emitted events is kept. -/
structure KeepsCommand (s t : State) : Prop where
  cfg : t.cfg = s.cfg
  timeout : t.timeout = s.timeout
  reqCode : t.reqCode = s.reqCode
  reqLen : t.reqLen = s.reqLen
  reqData : t.reqData = s.reqData
  inbox : t.inbox = s.inbox
  freeCount : t.freeCount = s.freeCount

/-- The receive buffer is kept. -/
structure KeepsTransfer (s t : State) : Prop where
  rxN : t.rxN = s.rxN
  rxBuf : t.rxBuf = s.rxBuf

/-- The receive buffer holds the transfer `b` (10_state.md R34). -/
structure HoldsTransfer (b : List Byte) (t : State) : Prop where
  rxN : t.rxN = b.length
  rxBuf : ∀ (a : Nat) (h : a < b.length), t.rxBuf.read a = some b[a]

/-- `raise x` from `s` to `t` (00_scope.md R16, 60_exceptions.md R200, R214); what the receive buffer holds is not
said here. -/
structure Raises (x : Result) (s t : State) : Prop where
  phase : t.phase = .idle
  result : t.result = x
  rspLen : t.rspLen = 0
  emitted : t.emitted = s.emitted ++ [.done x []]
  keeps : KeepsCommand s t

/-- `emit RxReq(BUF_CAP, TIMEOUT); PHASE <- p` from `s` to `t` (42_engine_send.md R139, R145); what the receive buffer
holds is not said here. -/
structure RequestsRead (p : Phase) (s t : State) : Prop where
  phase : t.phase = p
  emitted : t.emitted = s.emitted ++ [.rxReq s.cfg.bufCap s.timeout]
  result : t.result = s.result
  rspLen : t.rspLen = s.rspLen
  rspData : t.rspData = s.rspData
  keeps : KeepsCommand s t

/-- The acceptance of a command (42_engine_send.md R137), with the frame of 40_codec_encode.md R100 written out. -/
structure StartsExchange (code : Byte) (data : List Byte) (s t : State) : Prop where
  reqCode : t.reqCode = code
  reqLen : t.reqLen.toNat = data.length
  reqData : ∀ (a : Nat) (h : a < data.length), t.reqData.read a = some data[a]
  result : t.result = .none
  rspLen : t.rspLen = 0
  emitted : t.emitted = s.emitted ++ [.txReq (
    [0x00, 0x00, 0xFF, BitVec.ofNat 8 (data.length + 2), neg8 (BitVec.ofNat 8 (data.length + 2)), 0xD6, code]
      ++ data ++ [neg8 (sum8 (0xD6 :: code :: data))] ++ s.cfg.postamble)]
  phase : t.phase = .txWait
  cfg : t.cfg = s.cfg
  timeout : t.timeout = s.timeout
  inbox : t.inbox = s.inbox
  freeCount : t.freeCount = s.freeCount
  transfer : KeepsTransfer s t

end Sys2Proof.Machine
end

