-- ==== Sys2Proof/Certificates/Slice0/Obligations.lean ====
section
/-! DEFINITION. The statements about the model. Each docstring names the rules of spec/ it formalises, and the log
entry of notes/assumptions/ it rests on where it rests on a choice of the model. -/

open Sys2Proof Sys2Proof.Machine

/-! ## Encodings -/

/-- Words written out from the spec's encodings decode to the rows they stand for (30_encoding.md R74, R92;
41_codec_decode.md R132; 95_test_vectors.md VE1, VD18; 43_host_port_ops.md R170, R178). -/
def Obligations.SampleWordsDecodeToTheirRows : Prop :=
  decode defaultConfig (.rx [0x00, 0x00, 0xFF, 0x00, 0xFF, 0x00]) = .ok (.ack []) ∧
  decode defaultConfig (.rx [0x00, 0x00, 0xFF, 0x03, 0xFD, 0xD7, 0xD8, 0x01, 0x50, 0x00]) =
    .ok (.rsp [0xD7, 0xD8, 0x01] [0x00]) ∧
  decode defaultConfig (.rx [0x00, 0x00, 0xFF, 0x01, 0xFF, 0x7F, 0x81, 0x00]) = .ok (.rsp [0x7F] [0x00]) ∧
  decode defaultConfig (.rx [0x00, 0x00, 0xFF, 0x03, 0xFD, 0xD7, 0xD8, 0x01, 0x27, 0x00]) =
    .ok (.malformed [0x00, 0x00, 0xFF, 0x03, 0xFD, 0xD7, 0xD8, 0x01, 0x27, 0x00]) ∧
  decode defaultConfig (.tx [0x00, 0x00, 0xFF, 0x02, 0xFE, 0xD6, 0xD7, 0x53, 0x00]) = .ok (.cmd 0xD7 []) ∧
  decode defaultConfig (.host ⟨0x01, 0x2A, [0x01], 0⟩) = .ok (.send 0x2A [0x01]) ∧
  decode defaultConfig (.host ⟨0x02, 0, [], 1000⟩) = .ok (.setto 1000) ∧
  decode defaultConfig (.host ⟨0x03, 0, [], 0⟩) = .ok .rdres ∧
  decode defaultConfig (.host ⟨0x04, 0, [], 0⟩) = .ok .reset ∧
  decode defaultConfig (.host ⟨0x05, 0, [], 0⟩) = .error (.unknownOpsel 0x05)

/-- Decoding an encoded well-formed instruction gives it back, for every row that has an encoding and every value of
the parameters; a symbolic command comes back as the `CMD` frame with its code (30_encoding.md R80, R89). -/
def Obligations.DecodeOfEncodeIsTheInstruction : Prop :=
  ∀ (c : Config) (i : Instr) (w : PortWord),
    WellFormed c i = true → encode c i = some w → decode c w = .ok (canon c i)

/-- Encoding what was decoded from a buffer or from an outbound frame gives back every byte of it, and what is decoded
is well-formed (30_encoding.md R84, R86). -/
def Obligations.EncodeOfDecodeIsTheBuffer : Prop :=
  ∀ (c : Config) (b : List Byte),
    encode c (decodeRx c b) = some (.rx b) ∧
    (b.length ≤ c.bufCap → WellFormed c (decodeRx c b) = true) ∧
    ∀ i, decodeTx c b = .ok i → encode c i = some (.tx b) ∧ WellFormed c i = true

/-- 40_codec_encode.md R102: every frame `ENCODE` gives meets the two relations, byte 3 with byte 4 and the payload
bytes with the checksum byte. -/
def Obligations.EncodedFramesMeetBothRelations : Prop :=
  ∀ (c : Config) (code : Byte) (data : List Byte), data.length ≤ 253 →
    ∃ f, encodeFrame c code data = some f ∧
      (byteAt f 3).toNat = data.length + 2 ∧
      ((byteAt f 3).toNat + (byteAt f 4).toNat) % 256 = 0 ∧
      slice f 5 (data.length + 2) = 0xD6 :: code :: data ∧
      ((0xD6 + code.toNat + (data.map BitVec.toNat).sum) + (byteAt f (7 + data.length)).toNat) % 256 = 0

/-- 40_codec_encode.md R100, R101, R103: `ENCODE` evaluated on its own completes for every operand, changes no
register and no buffer, and its value is the frame written out here, of `8 + n + P` bytes, or no frame for
`n > 253`. That the value is reported as an output, and that outside the domain there is no frame (one of the two
readings R101 leaves), is the model's choice (log entry 11). -/
def Obligations.EncodeGivesTheFrameOfItsOperands : Prop :=
  ∀ (s : State) (code : Byte) (data : List Byte),
    ∃ f, exec (.encode code data) s = .next { s with emitted := s.emitted ++ [.encoded f] } ∧
      (data.length ≤ 253 → f = some (
        [0x00, 0x00, 0xFF, BitVec.ofNat 8 (data.length + 2), neg8 (BitVec.ofNat 8 (data.length + 2)), 0xD6, code]
          ++ data ++ [neg8 (sum8 (0xD6 :: code :: data))] ++ s.cfg.postamble)) ∧
      (253 < data.length → f = none) ∧
      ∀ g, f = some g → g.length = 8 + data.length + s.cfg.postamble.length

/-- 41_codec_decode.md R115, R117, R123, R126: `DECODE` evaluated on its own completes on every buffer, changes no register
and no buffer, and gives `Ack` exactly for the buffers that begin with `ACK_PATTERN`, `Response(p)` exactly for the
others that begin with a normal frame of payload `p` meeting both relations, `Malformed` for all the rest. That the
verdict is reported as an output is the model's choice (log entry 11). -/
def Obligations.DecodeClassifiesEveryBuffer : Prop :=
  ∀ (s : State) (b : List Byte),
    ∃ v, exec (.decode b) s = .next { s with emitted := s.emitted ++ [.decoded v] } ∧
      (v = .ack ↔ s.cfg.ackPattern <+: b) ∧
      (∀ p, v = .response p ↔ ¬ s.cfg.ackPattern <+: b ∧
        ∃ len lcs dcs tail, b = [0x00, 0x00, 0xFF, len, lcs] ++ p ++ [dcs] ++ tail ∧ p.length = len.toNat ∧
          (len.toNat + lcs.toNat) % 256 = 0 ∧ ((p.map BitVec.toNat).sum + dcs.toNat) % 256 = 0) ∧
      (v = .malformed ↔ v ≠ .ack ∧ ∀ p, v ≠ .response p)

/-- 41_codec_decode.md R124, 20_memory.md R54: two buffers that agree up to and including the checksum byte of a
frame have the same verdict, whatever follows it, unless one of them begins with the ACK pattern (R117 comes first). -/
def Obligations.DecodeIgnoresWhatFollowsTheFrame : Prop :=
  ∀ (c : Config) (b b' p : List Byte),
    decodeFrame c b = .response p →
    b'.take (6 + p.length) = b.take (6 + p.length) →
    ¬ c.ackPattern <+: b' →
    decodeFrame c b' = .response p

/-- 40_codec_encode.md R106: a command frame that does not begin with the ACK pattern decodes to `D6`, `code`, `data`,
with and without its postamble; an echoed device frame that does not begin with it decodes to `D7`, `code + 1`, `data`;
its payload correlates with `code` and reduces to `data`. -/
def Obligations.FramesRoundTripThroughTheCodec : Prop :=
  ∀ (c : Config) (code : Byte) (data : List Byte), data.length ≤ 253 →
    (∀ f, encodeFrame c code data = some f → ¬ c.ackPattern <+: f →
      decodeFrame c f = .response (0xD6 :: code :: data) ∧
      decodeFrame c (f.take (8 + data.length)) = .response (0xD6 :: code :: data)) ∧
    (∀ tail, ¬ c.ackPattern <+: normalFrame (0xD7 :: inc8 code :: data) tail →
      decodeFrame c (normalFrame (0xD7 :: inc8 code :: data) tail) = .response (0xD7 :: inc8 code :: data)) ∧
    correlates (0xD7 :: inc8 code :: data) code = true ∧
    slice (0xD7 :: inc8 code :: data) 2 data.length = data

/-! ## The host port -/

/-- 42_engine_send.md R137: `SEND` in phase `IDLE` with at most 253 data bytes latches the command, clears `RESULT`
and `RSP_LEN`, emits the frame and waits for the write; nothing else changes. -/
def Obligations.SendStartsAnExchange : Prop :=
  ∀ (s : State) (code : Byte) (data : List Byte), s.phase = .idle → data.length ≤ 253 →
    ∃ t, exec (.send code data) s = .next t ∧ StartsExchange code data s t

/-- Row `CMD`: the step that puts a command frame on the wire is the acceptance of 42_engine_send.md R137. That the
row means this step is the model's reading (log entry 14). -/
def Obligations.CommandFrameStartsItsExchange : Prop :=
  ∀ (s : State) (code : Byte) (data : List Byte), s.phase = .idle → data.length ≤ 253 →
    ∃ t, exec (.cmd code data) s = .next t ∧ StartsExchange code data s t

/-- The seven symbolic commands of 30_encoding.md R89 each start the exchange of a `SEND` with their code
(44_host_polling_loop.md R193). That the rows mean this step, with the payload an operand, is the model's reading
(log entries 3 and 14). -/
def Obligations.SymbolicCommandsStartTheirExchange : Prop :=
  ∀ (s : State) (data : List Byte), s.phase = .idle → data.length ≤ 253 →
    (∃ t, exec (.cmdSetCommandType data) s = .next t ∧ StartsExchange s.cfg.codeSetCommandType data s t) ∧
    (∃ t, exec (.cmdGetFirmwareVersion data) s = .next t ∧ StartsExchange s.cfg.codeGetFirmwareVersion data s t) ∧
    (∃ t, exec (.cmdGetPDDataVersion data) s = .next t ∧ StartsExchange s.cfg.codeGetPDDataVersion data s t) ∧
    (∃ t, exec (.cmdSwitchRF data) s = .next t ∧ StartsExchange s.cfg.codeSwitchRF data s t) ∧
    (∃ t, exec (.cmdInSetRF data) s = .next t ∧ StartsExchange s.cfg.codeInSetRF data s t) ∧
    (∃ t, exec (.cmdInSetProtocol data) s = .next t ∧ StartsExchange s.cfg.codeInSetProtocol data s t) ∧
    (∃ t, exec (.cmdInCommRF data) s = .next t ∧ StartsExchange s.cfg.codeInCommRF data s t)

/-- 42_engine_send.md R138: `SEND` in phase `IDLE` with more than 253 data bytes completes at once with
`BAD_COMMAND`; no request goes to the Transport and the command registers are not written. -/
def Obligations.OverlongSendIsBadCommand : Prop :=
  ∀ (s : State) (code : Byte) (data : List Byte), s.phase = .idle → 253 < data.length →
    ∃ t, exec (.send code data) s = .next t ∧ Raises .badCommand s t ∧ KeepsTransfer s t

/-- 42_engine_send.md R136, 43_host_port_ops.md R173: `SEND` and `SETTO` while an exchange is in flight are refused
and change nothing. -/
def Obligations.BusyPortRefusesSendAndSetto : Prop :=
  ∀ (s : State), s.phase ≠ .idle →
    (∀ code data, exec (.send code data) s = .next { s with emitted := s.emitted ++ [.refused] }) ∧
    (∀ v, exec (.setto v) s = .next { s with emitted := s.emitted ++ [.refused] })

/-- The row `CMD` and the seven symbolic rows outside that case: refused with nothing changed while an exchange is in
flight (42_engine_send.md R136), `BAD_COMMAND` in phase `IDLE` for more than 253 data bytes (R138). That the rows mean
the acceptance step is the model's reading (log entry 14). -/
def Obligations.CommandRowsAreRefusedAndRejectedAsSend : Prop :=
  ∀ (s : State) (code : Byte) (data : List Byte) (i : Instr),
    i ∈ [.cmd code data, .cmdSetCommandType data, .cmdGetFirmwareVersion data, .cmdGetPDDataVersion data,
      .cmdSwitchRF data, .cmdInSetRF data, .cmdInSetProtocol data, .cmdInCommRF data] →
    (s.phase ≠ .idle → exec i s = .next { s with emitted := s.emitted ++ [.refused] }) ∧
    (s.phase = .idle → 253 < data.length →
      ∃ t, exec i s = .next t ∧ Raises .badCommand s t ∧ KeepsTransfer s t)

/-- 43_host_port_ops.md R178: a step on a host transaction whose `OPSEL` is none of 1 to 4 takes the transaction,
refuses it and changes nothing else. -/
def Obligations.UnknownOpselIsRefused : Prop :=
  ∀ (s : State) (x : HostTxn) (later : List Input), s.inbox = .host x :: later →
    ¬ (1 ≤ x.opsel.toNat ∧ x.opsel.toNat ≤ 4) →
    step s = .next { s with inbox := later, emitted := s.emitted ++ [.refused] }

/-- 43_host_port_ops.md R172: `SETTO` in phase `IDLE` writes `TIMEOUT` and nothing else; where `TIMEOUT` has the new
value, the read that follows a write carries it, and so does every `RxReq` any step emits. -/
def Obligations.SettoWritesTheTimeout : Prop :=
  ∀ (s : State) (v : Word32), s.phase = .idle →
    exec (.setto v) s = .next { s with timeout := v } ∧
    (∀ (t : State) (later : List Input), t.timeout = v → t.phase = .txWait → t.inbox = .txOk :: later →
      ∃ u, step t = .next u ∧ u.emitted = t.emitted ++ [.rxReq t.cfg.bufCap v]) ∧
    (∀ (t u : State) (cap : Nat) (w : Word32), t.timeout = v → step t = .next u →
      u.emitted = t.emitted ++ [.rxReq cap w] → w = v)

/-- 43_host_port_ops.md R174, 10_state.md R28: `RDRES` returns `STATUS`, `TIMEOUT`, `RSP_LEN` and the `RSP_LEN` bytes
of `RSP_DATA`, and changes nothing. After any step that does not handle an accepted `SEND` or `SETTO` or a `RESET`, and
does not complete the exchange in flight (20_memory.md R66), it returns the same tuple. -/
def Obligations.RdresReturnsTheResult : Prop :=
  ∀ (s : State), s.Inv →
    ∃ st data, exec .rdres s = .next { s with emitted := s.emitted ++ [.results st s.timeout s.rspLen data] } ∧
      st.toNat = (if s.phase = .idle then 0 else 128) + (resultBits s.result).toNat ∧
      data.length = s.rspLen.toNat ∧
      (∀ (a : Nat) (h : a < data.length), s.rspData.read a = some data[a]) ∧
      ∀ t, step s = .next t →
        (∀ x later, s.inbox = .host x :: later →
          x.opsel ≠ 0x04 ∧ (s.phase = .idle → x.opsel ≠ 0x01 ∧ x.opsel ≠ 0x02)) →
        (s.phase ≠ .idle → t.phase ≠ .idle) →
        exec .rdres t = .next { t with emitted := t.emitted ++ [.results st s.timeout s.rspLen data] }

/-- 43_host_port_ops.md R175: in every waiting phase `RDRES` returns `STATUS` `80`, `RSP_LEN` 0 and no data. -/
def Obligations.RdresInFlightShowsOnlyBusy : Prop :=
  ∀ (s : State), s.Inv → s.phase ≠ .idle →
    exec .rdres s = .next { s with emitted := s.emitted ++ [.results 0x80 s.timeout 0 []] }

/-- 43_host_port_ops.md R176: `RESET` is accepted in every phase, puts the four registers to their reset values, which
are those of power-on, and emits nothing; the other registers and the buffers are unspecified after it. -/
def Obligations.ResetRestoresTheResetValues : Prop :=
  ∀ (s : State), ∃ t, exec .reset s = .next t ∧
    t.phase = .idle ∧ t.result = .none ∧ t.rspLen = 0 ∧ t.timeout = s.cfg.timeoutDefault ∧
    t.phase = State.reset.phase ∧ t.result = State.reset.result ∧ t.rspLen = State.reset.rspLen ∧
    (s.cfg = State.reset.cfg → t.timeout = State.reset.timeout) ∧
    t.emitted = s.emitted ∧ t.inbox = s.inbox ∧ t.cfg = s.cfg

/-- 70_reset_and_hazards.md R231: the values the spec gives the state after reset. -/
def Obligations.ResetStateHasTheSpecValues : Prop :=
  State.reset.phase = .idle ∧ State.reset.result = .none ∧ State.reset.rspLen = 0 ∧
  State.reset.timeout = State.reset.cfg.timeoutDefault ∧ statusByte State.reset = 0x00

/-! ## The Transport's answers -/

/-- 42_engine_send.md R139, R140: in `TX_WAIT`, `TxOk` issues the first read with the full `TIMEOUT` and `TxErr`
raises `TRANSPORT_WRITE_ERROR`. -/
def Obligations.WriteAnswersAdvanceTheExchange : Prop :=
  ∀ (s : State) (later : List Input), s.phase = .txWait →
    (s.inbox = .txOk :: later →
      ∃ t, step s = .next t ∧ RequestsRead .ackWait { s with inbox := later } t ∧ KeepsTransfer s t) ∧
    (s.inbox = .txErr :: later →
      ∃ t, step s = .next t ∧ Raises .transportWriteError { s with inbox := later } t ∧ KeepsTransfer s t)

/-- 42_engine_send.md R141, R142, R146, R147: in both reading phases `RxTimeout` raises `TIMEOUT` and `RxErr` raises
`TRANSPORT_READ_ERROR`; no read is issued. -/
def Obligations.FailedReadsEndTheExchange : Prop :=
  ∀ (s : State) (later : List Input), s.phase = .ackWait ∨ s.phase = .rspWait →
    (s.inbox = .rxTimeout :: later →
      ∃ t, step s = .next t ∧ Raises .timeout { s with inbox := later } t ∧ KeepsTransfer s t) ∧
    (s.inbox = .rxErr :: later →
      ∃ t, step s = .next t ∧ Raises .transportReadError { s with inbox := later } t ∧ KeepsTransfer s t)

/-- 42_engine_send.md R145, R149: an `Ack` buffer is followed by the second read in `ACK_WAIT` and raises `MISMATCH`
in `RSP_WAIT`. -/
def Obligations.AckOpensTheSecondReadOnlyOnce : Prop :=
  ∀ (s : State) (rest : List Byte), s.cfg.ackPattern.length + rest.length ≤ s.cfg.bufCap →
    (s.phase = .ackWait →
      ∃ t, exec (.ack rest) s = .next t ∧ RequestsRead .rspWait s t ∧ HoldsTransfer (s.cfg.ackPattern ++ rest) t) ∧
    (s.phase = .rspWait →
      ∃ t, exec (.ack rest) s = .next t ∧ Raises .mismatch s t ∧ HoldsTransfer (s.cfg.ackPattern ++ rest) t)

/-- 42_engine_send.md R144: a `Response` buffer in `ACK_WAIT` raises `UNEXPECTED_RESPONSE`, whatever its payload. -/
def Obligations.ResponseToTheFirstReadIsUnexpected : Prop :=
  ∀ (s : State) (p rest : List Byte), s.phase = .ackWait → 6 + p.length + rest.length ≤ s.cfg.bufCap →
    ∃ t, exec (.rsp p rest) s = .next t ∧ Raises .unexpectedResponse s t ∧ HoldsTransfer (normalFrame p rest) t

/-- 42_engine_send.md R151: in `RSP_WAIT` a payload `D7`, `code + 1`, `d` stores `d` in `RSP_DATA`, sets `RSP_LEN` to
its length and completes with `OK`, in one step. -/
def Obligations.CorrelatedResponseIsDelivered : Prop :=
  ∀ (s : State) (d rest : List Byte), s.phase = .rspWait → d.length ≤ 253 →
    8 + d.length + rest.length ≤ s.cfg.bufCap →
    ∃ t, exec (.rsp (0xD7 :: (s.reqCode + 1) :: d) rest) s = .next t ∧
      t.phase = .idle ∧ t.result = .ok ∧ t.rspLen.toNat = d.length ∧
      (∀ (a : Nat) (h : a < d.length), t.rspData.read a = some d[a]) ∧
      t.emitted = s.emitted ++ [.done .ok d] ∧
      KeepsCommand s t ∧ HoldsTransfer (normalFrame (0xD7 :: (s.reqCode + 1) :: d) rest) t

/-- 42_engine_send.md R150, R153: in `RSP_WAIT` a payload that is shorter than two bytes, or whose first byte is not
`D7`, or whose second is not `code + 1`, raises `MISMATCH`. -/
def Obligations.UncorrelatedResponseIsMismatch : Prop :=
  ∀ (s : State) (p rest : List Byte), s.phase = .rspWait → 6 + p.length + rest.length ≤ s.cfg.bufCap →
    (p.length < 2 ∨ byteAt p 0 ≠ 0xD7 ∨ byteAt p 1 ≠ s.reqCode + 1) →
    ∃ t, exec (.rsp p rest) s = .next t ∧ Raises .mismatch s t ∧ HoldsTransfer (normalFrame p rest) t

/-- 42_engine_send.md R143, R148: a `Malformed` buffer raises `BAD_ACK` in `ACK_WAIT` and `BAD_RESPONSE` in
`RSP_WAIT`. -/
def Obligations.MalformedBuffersFailByPhase : Prop :=
  ∀ (s : State) (b : List Byte), b.length ≤ s.cfg.bufCap →
    (s.phase = .ackWait →
      ∃ t, exec (.malformed b) s = .next t ∧ Raises .badAck s t ∧ HoldsTransfer b t) ∧
    (s.phase = .rspWait →
      ∃ t, exec (.malformed b) s = .next t ∧ Raises .badResponse s t ∧ HoldsTransfer b t)

/-- 42_engine_send.md R152: a Transport event that does not answer the request outstanding in the phase is taken and
changes nothing. Of the two readings R152 leaves, the step that changes nothing is the model's choice, and so is that a
dropped `RxData` leaves `RXBUF` and `RX_N` as they are, against the words of 10_state.md R34 (log entry 18). -/
def Obligations.UnansweredEventsChangeNothing : Prop :=
  ∀ (s : State) (i : Input) (later : List Input), s.inbox = i :: later →
    fromTransport i = true → answersRequest s.phase i = false →
    step s = .next { s with inbox := later }

/-- 70_reset_and_hazards.md R234, 10_state.md R39: the Host's opening and closing of the Transport, in every phase and
as often as it likes, changes nothing of the block, and every run goes on as if it had not happened. That they stand
among the events of the model, although the block does not see them, is the model's choice (log entry 22). -/
def Obligations.TransportOpenAndCloseChangeNothing : Prop :=
  ∀ (s : State) (i : Input) (later : List Input), s.inbox = i :: later → i = .transportOpen ∨ i = .transportClose →
    step s = .next { s with inbox := later } ∧
    ∀ n, core.run (n + 1) s = core.run n { s with inbox := later }

/-! ## The step -/

/-- When the next event carries a word that decodes to an instruction, the step takes the event and runs exactly that
instruction (00_scope.md R15; log entry 7). -/
def Obligations.StepRunsTheDecodedInstruction : Prop :=
  ∀ (s : State) (i : Input) (later : List Input) (w : PortWord) (op : Instr),
    s.inbox = i :: later → inputWord i = some w → decode s.cfg w = .ok op →
    step s = exec op { s with inbox := later }

/-- The invariant holds after reset. -/
def Obligations.InvariantHoldsAtReset : Prop := State.reset.Inv

/-- Every step keeps the invariant, from every state that meets it. -/
def Obligations.StepKeepsTheInvariant : Prop :=
  ∀ (s t : State), s.Inv → step s = .next t → t.Inv

/-- From every state that meets the invariant, a step on an event whose transfer fits `BUF_CAP`, or on no event,
answers a next state: the block never stops (41_codec_decode.md R126, 60_exceptions.md R217). -/
def Obligations.StepsNeverStop : Prop :=
  ∀ (s : State), s.Inv → (∀ i later, s.inbox = i :: later → i.Fits s.cfg) → ∃ t, step s = .next t

/-- 10_state.md R23, 70_reset_and_hazards.md R248: `PHASE` moves only along the exchange or back to `IDLE`, and a
waiting phase is left only by an answer to its request or by `RESET`. -/
def Obligations.PhaseFollowsTheExchange : Prop :=
  ∀ (s t : State), step s = .next t →
    (t.phase = s.phase ∨ t.phase = .idle ∨ (s.phase = .idle ∧ t.phase = .txWait) ∨
      (s.phase = .txWait ∧ t.phase = .ackWait) ∨ (s.phase = .ackWait ∧ t.phase = .rspWait)) ∧
    (s.phase ≠ .idle → t.phase ≠ s.phase → ∃ i later, s.inbox = i :: later ∧
      (answersRequest s.phase i = true ∨ ∃ x, i = .host x ∧ x.opsel = 0x04))

/-- 10_state.md R27: `TIMEOUT` is written only by `SETTO` in phase `IDLE` and by `RESET`; no step changes a
parameter. -/
def Obligations.OnlySettoAndResetWriteTheTimeout : Prop :=
  ∀ (s t : State), step s = .next t →
    t.cfg = s.cfg ∧
    (t.timeout ≠ s.timeout → ∃ x later, s.inbox = .host x :: later ∧
      ((x.opsel = 0x02 ∧ s.phase = .idle ∧ t.timeout = x.t) ∨
        (x.opsel = 0x04 ∧ t.timeout = s.cfg.timeoutDefault)))

/-- 10_state.md R40, R25, R33, 60_exceptions.md R216: `RESULT`, `RSP_LEN` and `RSP_DATA` are changed only by a step that
accepts a `SEND` in phase `IDLE` (to `NONE`, 0 and no bytes where an exchange starts), by one that completes with `Done`,
and by `RESET`; a step that handles nothing of the kind keeps all three. That `RSP_DATA` lists no byte once `RSP_LEN` is 0
is the model's choice (log entry 6). -/
def Obligations.OnlySendDoneAndResetWriteTheResult : Prop :=
  ∀ (s t : State), step s = .next t →
    (t.result = s.result ∧ t.rspLen = s.rspLen ∧ t.rspData = s.rspData) ∨
    (∃ x later, s.inbox = .host x :: later ∧ x.opsel = 0x01 ∧ s.phase = .idle ∧ t.phase = .txWait ∧
      t.result = .none ∧ t.rspLen = 0 ∧ t.rspData = []) ∨
    (∃ r d, t.emitted = s.emitted ++ [.done r d] ∧ t.result = r ∧ (r ≠ .ok → t.rspLen = 0 ∧ t.rspData = []) ∧
      (r = .ok → t.rspData.map Prod.snd = d)) ∨
    (∃ x later, s.inbox = .host x :: later ∧ x.opsel = 0x04 ∧ t.result = .none ∧ t.rspLen = 0 ∧ t.rspData = [])

/-- 20_memory.md R65: while an exchange is in flight no step but `RESET` changes the latched command. -/
def Obligations.LatchedCommandHolds : Prop :=
  ∀ (s t : State), s.phase ≠ .idle → step s = .next t →
    (∀ x later, s.inbox = .host x :: later → x.opsel ≠ 0x04) →
    t.reqCode = s.reqCode ∧ t.reqLen = s.reqLen ∧ t.reqData = s.reqData

/-- 60_exceptions.md R212, 42_engine_send.md R157: a step emits at most one event; a step that emits `Done(r)` leaves
the block idle with `RESULT = r`, which is not `NONE`; and a waiting phase is left for `IDLE` only with a `Done` or by
`RESET`. -/
def Obligations.DoneMarksTheEndOfAnExchange : Prop :=
  ∀ (s t : State), step s = .next t →
    ∃ out, t.emitted = s.emitted ++ out ∧ out.length ≤ 1 ∧
      (∀ r d, .done r d ∈ out → t.phase = .idle ∧ t.result = r ∧ r ≠ .none) ∧
      (s.phase ≠ .idle → t.phase = .idle →
        (∃ r d, out = [.done r d]) ∨ ∃ x later, s.inbox = .host x :: later ∧ x.opsel = 0x04)

/-- 20_memory.md R62, 42_engine_send.md R154: a step emits a write request if and only if it goes from `IDLE` to
`TX_WAIT`, and a read request, with `BUF_CAP` and the whole `TIMEOUT`, if and only if it goes from `TX_WAIT` to `ACK_WAIT`
or from `ACK_WAIT` to `RSP_WAIT`; it then emits nothing else. So the block never has two requests outstanding and never
repeats one. -/
def Obligations.RequestsFollowThePhase : Prop :=
  ∀ (s t : State), step s = .next t →
    ∃ out, t.emitted = s.emitted ++ out ∧ out.length ≤ 1 ∧
      ((∃ f, out = [.txReq f]) ↔ s.phase = .idle ∧ t.phase = .txWait) ∧
      (out = [.rxReq s.cfg.bufCap s.timeout] ↔
        (s.phase = .txWait ∧ t.phase = .ackWait) ∨ (s.phase = .ackWait ∧ t.phase = .rspWait)) ∧
      (∀ cap v, .rxReq cap v ∈ out → cap = s.cfg.bufCap ∧ v = s.timeout)

/-- 60_exceptions.md R214: a step that completes with a failure sets `RESULT`, `RSP_LEN` and `PHASE`, and leaves
`TIMEOUT`, the latched command and the model's own fields; the receive buffer holds the transfer if a received buffer
caused the failure (10_state.md R34), and is kept otherwise. -/
def Obligations.FailuresSetTheStatusAndKeepTheCommand : Prop :=
  ∀ (s t : State) (x : Result) (d : List Byte), step s = .next t → t.emitted = s.emitted ++ [.done x d] → x ≠ .ok →
    d = [] ∧ t.result = x ∧ t.rspLen = 0 ∧ t.phase = .idle ∧ t.timeout = s.timeout ∧
    t.reqCode = s.reqCode ∧ t.reqLen = s.reqLen ∧ t.reqData = s.reqData ∧
    t.cfg = s.cfg ∧ t.freeCount = s.freeCount ∧ t.inbox = s.inbox.tail ∧
    (∀ b later, s.inbox = .rxData b :: later → HoldsTransfer b t) ∧
    ((∀ b later, s.inbox ≠ .rxData b :: later) → KeepsTransfer s t)

/-- 10_state.md R34, R35: what the receive buffer held before a step has no influence on the step. -/
def Obligations.EarlierTransfersHaveNoInfluence : Prop :=
  ∀ (s t : State) (m : Memory) (n : Nat), step s = .next t →
    ∃ t', step { s with rxBuf := m, rxN := n } = .next t' ∧ { t' with rxBuf := t.rxBuf, rxN := t.rxN } = t

/-- 42_engine_send.md R158, R155 (a bounded run, with no Host operation between the answers): from `TX_WAIT`, one answer to the write and at most two answers to reads, each
fitting `BUF_CAP`, bring the block back to `IDLE` with a result; one read request is emitted for each answer that
does not end the exchange. -/
def Obligations.ExchangesComplete : Prop :=
  ∀ (s : State) (w r r' : Input) (later : List Input), s.Inv → s.phase = .txWait →
    s.inbox = w :: r :: r' :: later →
    answersRequest .txWait w = true → answersRequest .ackWait r = true → answersRequest .rspWait r' = true →
    r.Fits s.cfg → r'.Fits s.cfg →
    ∃ k t x d, k < 3 ∧ core.run (k + 1) s = .next t ∧ t.phase = .idle ∧ t.result = x ∧ x ≠ .none ∧
      t.emitted = s.emitted ++ List.replicate k (.rxReq s.cfg.bufCap s.timeout) ++ [.done x d]

/-! ## The Polling Loop -/

/-- 44_host_polling_loop.md R187 (95_test_vectors.md S5): a result that is the sentinel is "no card" and the loop
in `Polling` keeps polling, whichever reading of the sentinel is taken. The loop is the Host's (log entry 17). -/
def Obligations.NoCardKeepsPolling : Prop :=
  ∀ (p : HostParams) (l : HostLoop), l.st = .polling →
    loopOnDone p .ok [0x80, 0x00, 0x00, 0x00] l = ⟨.polling, l.iterations + 1, 0⟩

/-- 44_host_polling_loop.md R187, R188 (95_test_vectors.md S6): a result that is no sentinel, carries the Type-F
signature and then 8 bytes of `idm` and 8 of `pmm` ends the loop in `Polling`, which reports exactly those bytes. The loop
is the Host's (log entry 17). -/
def Obligations.TypeFCardIsReported : Prop :=
  ∀ (c : Config) (p : HostParams) (l : HostLoop) (before idm pmm after : List Byte) (cancelled : Bool),
    l.st = .polling → before.length = p.idmOff → idm.length = 8 → pmm.length = 8 →
    ¬ noCardSentinel <+: before ++ idm ++ pmm ++ after →
    (before ++ idm ++ pmm ++ after)[p.typeFIdx0]? = some p.typeFSig0 →
    (before ++ idm ++ pmm ++ after)[p.typeFIdx1]? = some p.typeFSig1 →
    loopAction c p cancelled (loopOnDone p .ok (before ++ idm ++ pmm ++ after) l) = .report idm pmm

/-- 44_host_polling_loop.md R185: `Found` is terminal: no later result changes the loop, and its action is to report the
identifiers it found, cancelled or not. The loop is the Host's (log entry 17). -/
def Obligations.FoundIsTerminal : Prop :=
  ∀ (c : Config) (p : HostParams) (l : HostLoop) (idm pmm : List Byte), l.st = .found idm pmm →
    (∀ r data, loopOnDone p r data l = l) ∧ ∀ cancelled, loopAction c p cancelled l = .report idm pmm
end

