-- ==== Sys2Proof/Laws/Arith.lean ====
section
/-! SUPPORT. The laws of the byte arithmetic: `sum8` as a byte sum, and the two relations as equations that fix the
checksum byte. -/

namespace Sys2Proof.Machine

@[simp] theorem sum8_nil : sum8 [] = 0 := rfl

theorem sum8_cons (b : Byte) (s : List Byte) : sum8 (b :: s) = b + sum8 s := by
  apply BitVec.eq_of_toNat_eq
  simp [sum8, BitVec.toNat_add]

theorem sum8_append (s t : List Byte) : sum8 (s ++ t) = sum8 s + sum8 t := by
  apply BitVec.eq_of_toNat_eq
  simp [sum8, BitVec.toNat_add]

theorem neg8_eq (v : Byte) : neg8 v = -v := by
  apply BitVec.eq_of_toNat_eq
  simp [neg8, BitVec.toNat_neg]

theorem inc8_eq (v : Byte) : inc8 v = v + 1 := by
  apply BitVec.eq_of_toNat_eq
  simp [inc8, BitVec.toNat_add]

theorem relation1_iff (len lcs : Byte) : relation1 len lcs = true ↔ len + lcs = 0 := by
  simp only [relation1, beq_iff_eq, ← BitVec.toNat_inj, BitVec.toNat_add]
  simp

/-- Relation 1 fixes `LCS` (30_encoding.md R77). -/
theorem relation1_iff_neg8 (len lcs : Byte) : relation1 len lcs = true ↔ lcs = neg8 len := by
  rw [relation1_iff, neg8_eq]
  constructor <;> intro h
  · rw [eq_comm]; exact neg_eq_of_add_eq_zero_right h
  · rw [h]; exact add_neg_cancel len

theorem relation2_iff (p : List Byte) (dcs : Byte) : relation2 p dcs = true ↔ sum8 p + dcs = 0 := by
  simp only [relation2, beq_iff_eq, ← BitVec.toNat_inj, BitVec.toNat_add]
  simp

/-- Relation 2 fixes `DCS` (30_encoding.md R78). -/
theorem relation2_iff_neg8 (p : List Byte) (dcs : Byte) : relation2 p dcs = true ↔ dcs = neg8 (sum8 p) := by
  rw [relation2_iff, neg8_eq]
  constructor <;> intro h
  · rw [eq_comm]; exact neg_eq_of_add_eq_zero_right h
  · rw [h]; exact add_neg_cancel (sum8 p)

@[simp] theorem relation1_neg8 (len : Byte) : relation1 len (neg8 len) = true := (relation1_iff_neg8 _ _).2 rfl

@[simp] theorem relation2_neg8 (p : List Byte) : relation2 p (neg8 (sum8 p)) = true := (relation2_iff_neg8 _ _).2 rfl

/-- The correlator, as the two bytes a correlating payload begins with (42_engine_send.md R153). -/
theorem correlates_iff (p : List Byte) (c : Byte) :
    correlates p c = true ↔ ∃ d, p = dirRx :: inc8 c :: d := by
  match p with
  | [] => simp [correlates]
  | [_] => simp [correlates]
  | p0 :: p1 :: d => simp [correlates]

end Sys2Proof.Machine
end

