-- ==== Sys2Proof/Laws/Frames.lean ====
section
/-! SUPPORT. The laws of the frames: the layout of a normal frame, and `DECODE` on it and from it. -/

namespace Sys2Proof.Machine

/-- The layout of a normal frame as a list of bytes (20_memory.md R59). -/
theorem normalFrame_eq (p tail : List Byte) :
    normalFrame p tail = 0x00 :: 0x00 :: 0xFF :: BitVec.ofNat 8 p.length :: neg8 (BitVec.ofNat 8 p.length)
      :: (p ++ neg8 (sum8 p) :: tail) := by
  simp [normalFrame, preamble]

@[simp] theorem normalFrame_length (p tail : List Byte) :
    (normalFrame p tail).length = 6 + p.length + tail.length := by
  simp [normalFrame_eq]; omega

/-- A command frame as a normal frame whose payload begins `D6`, `code`. -/
theorem commandFrame_eq (c : Config) (code : Byte) (data : List Byte) :
    commandFrame c code data = normalFrame (dirTx :: code :: data) c.postamble := rfl

/-- `DECODE` finds the ACK pattern as a prefix (41_codec_decode.md R117). -/
theorem decodeFrame_of_prefix (c : Config) (b : List Byte) (h : c.ackPattern <+: b) : decodeFrame c b = .ack := by
  obtain ⟨t, rfl⟩ := h
  simp [decodeFrame, slice]

theorem prefix_of_decodeFrame_ack (c : Config) (b : List Byte) (h : decodeFrame c b = .ack) : c.ackPattern <+: b := by
  unfold decodeFrame at h
  simp only at h
  split at h
  · rename_i hp
    rw [← hp.2]
    exact List.take_prefix _ _
  · repeat' split at h
    all_goals cases h

theorem not_ackTest_of_not_prefix (c : Config) (b : List Byte) (h : ¬ c.ackPattern <+: b) :
    ¬ (c.ackPattern.length ≤ b.length ∧ slice b 0 c.ackPattern.length = c.ackPattern) := by
  rintro ⟨_, h2⟩
  exact h (h2 ▸ List.take_prefix _ _)

/-- `DECODE` of a normal frame is its payload, whatever follows the frame (41_codec_decode.md R123, R124). -/
theorem decodeFrame_normalFrame (c : Config) (p tail : List Byte) (hp : p.length ≤ 255)
    (ha : ¬ c.ackPattern <+: normalFrame p tail) : decodeFrame c (normalFrame p tail) = .response p := by
  have hlen : (BitVec.ofNat 8 p.length).toNat = p.length := by simp; omega
  have hb : normalFrame p tail = 0x00 :: 0x00 :: 0xFF :: BitVec.ofNat 8 p.length
      :: neg8 (BitVec.ofNat 8 p.length) :: (p ++ neg8 (sum8 p) :: tail) := normalFrame_eq p tail
  have h0 : byteAt (normalFrame p tail) 0 = 0x00 := by rw [hb]; rfl
  have h1 : byteAt (normalFrame p tail) 1 = 0x00 := by rw [hb]; rfl
  have h2 : byteAt (normalFrame p tail) 2 = 0xFF := by rw [hb]; rfl
  have h3 : byteAt (normalFrame p tail) 3 = BitVec.ofNat 8 p.length := by rw [hb]; rfl
  have h4 : byteAt (normalFrame p tail) 4 = neg8 (BitVec.ofNat 8 p.length) := by rw [hb]; rfl
  have hs : slice (normalFrame p tail) 5 p.length = p := by
    rw [hb]; simp [slice]
  have hd : byteAt (normalFrame p tail) (5 + p.length) = neg8 (sum8 p) := by
    rw [hb, show 5 + p.length = p.length + 5 by omega]
    simp [byteAt]
  unfold decodeFrame
  simp only
  rw [if_neg (not_ackTest_of_not_prefix c _ ha)]
  simp only [h0, h1, h2, h3, h4, hlen, hs, hd, normalFrame_length, relation1_neg8, relation2_neg8]
  rw [if_neg (by omega), if_neg (by decide), if_neg (by simp), if_neg (by omega), if_neg (by simp)]

/-- What `DECODE` says of a buffer when it answers `Response`: the buffer is the normal frame of the payload and then
whatever followed it. -/
theorem decodeFrame_response (c : Config) (b p : List Byte) (h : decodeFrame c b = .response p) :
    p.length ≤ 255 ∧ 6 + p.length ≤ b.length ∧ b = normalFrame p (b.drop (6 + p.length)) ∧ ¬ c.ackPattern <+: b := by
  have hna : ¬ c.ackPattern <+: b := fun hp => by rw [decodeFrame_of_prefix c b hp] at h; cases h
  unfold decodeFrame at h
  simp only at h
  rw [if_neg (not_ackTest_of_not_prefix c _ hna)] at h
  split at h; · cases h
  split at h; · cases h
  split at h; · cases h
  split at h; · cases h
  split at h; · cases h
  rename_i hn hpre h1 hlen h2
  simp only [Frame.response.injEq] at h
  rw [Bool.not_eq_false] at h1 h2
  rw [relation1_iff_neg8] at h1
  rw [relation2_iff_neg8] at h2
  simp only [not_or, not_not] at hpre
  obtain ⟨hb0, hb1, hb2⟩ := hpre
  have hpl : p.length = (byteAt b 3).toNat := by
    rw [← h]; simp [slice]; omega
  have hlt := (byteAt b 3).isLt
  refine ⟨by omega, by omega, ?_, hna⟩
  obtain ⟨b0, b1, b2, b3, b4, t, rfl⟩ : ∃ b0 b1 b2 b3 b4 t, b = b0 :: b1 :: b2 :: b3 :: b4 :: t := by
    match b, hn with
    | b0 :: b1 :: b2 :: b3 :: b4 :: t, _ => exact ⟨b0, b1, b2, b3, b4, t, rfl⟩
    | [], h | [_], h | [_, _], h | [_, _, _], h | [_, _, _, _], h => exact absurd (by simp) h
  rw [← hpl] at h hlen h2
  simp only [byteAt, List.getD_cons_zero, List.getD_cons_succ] at hb0 hb1 hb2 h1 hpl
  subst hb0 hb1 hb2
  rw [normalFrame_eq, show BitVec.ofNat 8 p.length = b3 by rw [hpl]; simp, ← h1]
  congr 5
  simp only [slice, List.drop_succ_cons, List.drop_zero] at h h2
  rw [h, show 5 + p.length = p.length + 5 by omega] at h2
  simp only [byteAt, List.getD_cons_succ] at h2
  simp only [List.length_cons] at hlen
  have hk : p.length < t.length := by omega
  rw [← h2, show 6 + p.length = (p.length + 1) + 5 by omega, List.getD_eq_getElem _ _ hk]
  simp only [List.drop_succ_cons]
  conv_lhs => rw [← List.take_append_drop p.length t, h, List.drop_eq_getElem_cons hk]

end Sys2Proof.Machine
end

