-- ==== Sys2Proof/Laws/Memory.lean ====
section
/-! SUPPORT. The laws of the buffer spaces: reading after writing, the canonical form, and what a space that has just
been filled holds. -/

namespace Sys2Proof.Machine

/-! ## One byte -/

theorem Memory.read_write_same (m : Memory) (a : Nat) (v : Byte) : (m.write a v).read a = some v := by
  induction m with
  | nil => simp [write, read]
  | cons c m ih =>
    obtain ⟨a', v'⟩ := c
    simp only [write]
    split
    · simp [read]
    · split
      · simp [read]
      · simp [read, *]

theorem Memory.read_write_other (m : Memory) (a b : Nat) (v : Byte) (h : b ≠ a) : (m.write a v).read b = m.read b := by
  induction m with
  | nil => simp [write, read, h]
  | cons c m ih =>
    obtain ⟨a', v'⟩ := c
    simp only [write]
    split
    · simp [read, h]
    · split
      · rename_i h2; subst h2; simp [read, h]
      · simp [read, ih]

/-! ## Runs of bytes -/

theorem Memory.read_writeBytes_below (v : List Byte) :
    ∀ (m : Memory) (off a : Nat), a < off → (m.writeBytes off v).read a = m.read a := by
  induction v with
  | nil => intros; rfl
  | cons b v ih =>
    intro m off a h
    rw [writeBytes, ih _ _ _ (by omega), read_write_other _ _ _ _ (by omega)]

theorem Memory.read_writeBytes (v : List Byte) :
    ∀ (m : Memory) (off a : Nat), off ≤ a →
      (m.writeBytes off v).read a = if h : a - off < v.length then some v[a - off] else m.read a := by
  induction v with
  | nil => intros; rfl
  | cons b v ih =>
    intro m off a h
    rw [writeBytes]
    rcases Nat.eq_or_lt_of_le h with rfl | h'
    · rw [read_writeBytes_below _ _ _ _ (by omega), read_write_same]; simp
    · rw [ih _ _ _ (by omega), read_write_other _ _ _ _ (by omega)]
      have e : a - off = (a - (off + 1)) + 1 := by omega
      by_cases hl : a - (off + 1) < v.length
      · rw [dif_pos hl, dif_pos (by simp; omega)]; simp [e]
      · rw [dif_neg hl, dif_neg (by simp; omega)]

theorem Memory.readBytes_of_read (m : Memory) (v : List Byte) :
    ∀ off, (∀ (i : Nat) (h : i < v.length), m.read (off + i) = some v[i]) → m.readBytes off v.length = some v := by
  induction v with
  | nil => intros; rfl
  | cons b v ih =>
    intro off h
    have h0 := h 0 (by simp)
    have h1 := ih (off + 1) fun i hi => by
      have := h (i + 1) (by simp; omega)
      simpa [Nat.add_assoc, Nat.add_comm 1 i] using this
    simp only [Nat.add_zero, List.getElem_cons_zero] at h0
    simp only [List.length_cons, readBytes, h0, h1]

theorem Memory.readBytes_length (m : Memory) :
    ∀ n off v, m.readBytes off n = some v → v.length = n := by
  intro n
  induction n with
  | zero => intro off v h; simp [readBytes] at h; simp [← h]
  | succ n ih =>
    intro off v h
    simp only [readBytes] at h
    split at h
    · rename_i h1 h2; cases h; simp [ih _ _ h2]
    · cases h

/-- `MemRead` of the bytes just written gives them back. -/
theorem Memory.readBytes_writeBytes (m : Memory) (off : Nat) (v : List Byte) :
    (m.writeBytes off v).readBytes off v.length = some v := by
  apply readBytes_of_read
  intro i hi
  rw [read_writeBytes _ _ _ _ (by omega)]
  simp [hi]

/-! ## The canonical form -/

/-- Every offset listed is at least `a`. -/
abbrev Memory.AtLeast (m : Memory) (a : Nat) : Prop := ∀ c ∈ m, a ≤ c.1

theorem Memory.wf_iff (m : Memory) : m.wf = true ↔ (m.map Prod.fst).Pairwise (· < ·) := by
  match m with
  | [] => simp [wf]
  | [_] => simp [wf]
  | (a, v) :: (a', v') :: m =>
    have ih := wf_iff ((a', v') :: m)
    simp only [wf, Bool.and_eq_true, decide_eq_true_eq, ih, List.map_cons, List.pairwise_cons, List.mem_cons,
      forall_eq_or_imp]
    constructor
    · rintro ⟨h, h1, h2⟩
      exact ⟨⟨h, fun x hx => lt_trans h (h1 x hx)⟩, h1, h2⟩
    · rintro ⟨⟨h, _⟩, h1, h2⟩
      exact ⟨h, h1, h2⟩

theorem Memory.mem_write (m : Memory) (a : Nat) (v : Byte) (c : Host.Cell) (h : c ∈ m.write a v) :
    c = (a, v) ∨ c ∈ m := by
  induction m with
  | nil => simpa [write] using h
  | cons d m ih =>
    obtain ⟨a', v'⟩ := d
    simp only [write] at h
    split at h
    · simpa using h
    · split at h
      · rcases List.mem_cons.1 h with h | h
        · exact .inl h
        · exact .inr (List.mem_cons_of_mem _ h)
      · rcases List.mem_cons.1 h with h | h
        · exact .inr (by simp [h])
        · rcases ih h with h | h
          · exact .inl h
          · exact .inr (List.mem_cons_of_mem _ h)

/-- A write keeps the canonical form. -/
theorem Memory.wf_write (m : Memory) (a : Nat) (v : Byte) (h : m.wf = true) : (m.write a v).wf = true := by
  rw [wf_iff] at h ⊢
  induction m with
  | nil => simp [write]
  | cons c m ih =>
    obtain ⟨a', v'⟩ := c
    simp only [List.map_cons, List.pairwise_cons, List.mem_map, forall_exists_index, and_imp] at h
    obtain ⟨h1, h2⟩ := h
    simp only [write]
    split
    · rename_i hlt
      simp only [List.map_cons, List.pairwise_cons, List.mem_cons, List.mem_map, forall_eq_or_imp,
        forall_exists_index, and_imp]
      exact ⟨⟨hlt, fun x c hc e => lt_trans hlt (h1 x c hc e)⟩, h1, h2⟩
    · split
      · rename_i heq
        subst heq
        simp only [List.map_cons, List.pairwise_cons, List.mem_map, forall_exists_index, and_imp]
        exact ⟨h1, h2⟩
      · simp only [List.map_cons, List.pairwise_cons, List.mem_map, forall_exists_index, and_imp]
        refine ⟨?_, ih h2⟩
        intro x c hc e
        rcases mem_write m a v c hc with rfl | hc
        · simp only at e; omega
        · exact h1 x c hc e

/-- Writing a run of bytes keeps the canonical form. -/
theorem Memory.wf_writeBytes (v : List Byte) :
    ∀ (m : Memory) (off : Nat), m.wf = true → (m.writeBytes off v).wf = true := by
  induction v with
  | nil => intro m off h; exact h
  | cons b v ih => intro m off h; exact ih _ _ (wf_write m off b h)

/-! ## A filled space -/

theorem Memory.write_snoc (m : Memory) (a : Nat) (v : Byte) (h : ∀ c ∈ m, c.1 < a) : m.write a v = m ++ [(a, v)] := by
  induction m with
  | nil => rfl
  | cons c m ih =>
    obtain ⟨a', v'⟩ := c
    have h' : a' < a := h (a', v') (by simp)
    simp only [write, if_neg (show ¬ a < a' by omega), if_neg (show ¬ a = a' by omega)]
    rw [ih fun c hc => h c (List.mem_cons_of_mem _ hc)]
    rfl

theorem Memory.writeBytes_append (v : List Byte) :
    ∀ (m : Memory) (off : Nat), (∀ c ∈ m, c.1 < off) →
      (m.writeBytes off v).map Prod.fst = m.map Prod.fst ++ (List.range v.length).map (off + ·) := by
  induction v with
  | nil => intro m off _; simp [writeBytes]
  | cons b v ih =>
    intro m off h
    rw [writeBytes, write_snoc m off b h, ih]
    · simp [List.range_succ_eq_map, Function.comp_def, Nat.add_assoc, Nat.add_comm 1]
    · intro c hc
      rcases List.mem_append.1 hc with hc | hc
      · have := h c hc; omega
      · simp at hc; simp [hc]

/-- A space filled from offset 0 lists exactly the offsets below the number of bytes. -/
theorem Memory.fill_dense (v : List Byte) : Memory.Dense (Memory.writeBytes [] 0 v) v.length := by
  have := writeBytes_append v [] 0 (by simp)
  simpa [Memory.Dense] using this

@[simp] theorem Memory.fill_length (v : List Byte) : (Memory.writeBytes [] 0 v).length = v.length := by
  have := congrArg List.length (fill_dense v)
  simpa using this

theorem Memory.read_fill (v : List Byte) (a : Nat) : (Memory.writeBytes [] 0 v).read a = v[a]? := by
  rw [read_writeBytes _ _ _ _ (Nat.zero_le a)]
  by_cases h : a < v.length
  · simp [h]
  · simp [h, read]

theorem Memory.wf_of_dense (m : Memory) (n : Nat) (h : m.Dense n) : m.wf = true := by
  rw [wf_iff, h]
  exact List.pairwise_lt_range

theorem Memory.dense_length (m : Memory) (n : Nat) (h : m.Dense n) : m.length = n := by
  have := congrArg List.length h
  simpa using this

theorem Memory.read_of_dense (m : Memory) :
    ∀ (k n : Nat), m.map Prod.fst = (List.range n).map (k + ·) →
      ∀ (i : Nat) (h : i < m.length), m.read (k + i) = some m[i].2 := by
  induction m with
  | nil => intro k n _ i h; simp at h
  | cons c m ih =>
    intro k n hd i hi
    obtain ⟨a, v⟩ := c
    cases n with
    | zero => simp at hd
    | succ n =>
      simp only [List.map_cons, List.range_succ_eq_map, List.map_map, List.cons.injEq] at hd
      obtain ⟨ha, hm⟩ := hd
      simp only [Nat.add_zero] at ha
      subst ha
      cases i with
      | zero => simp [read]
      | succ i =>
        have := ih (a + 1) n (by rw [hm]; simp [Function.comp_def, Nat.add_comm, Nat.add_left_comm]) i (by simpa using hi)
        simp only [read, if_neg (show ¬ a + (i + 1) = a by omega), List.getElem_cons_succ]
        rw [← this]
        congr 1
        omega

/-- A dense space reads back whole. -/
theorem Memory.readBytes_of_dense (m : Memory) (n : Nat) (h : m.Dense n) :
    m.readBytes 0 n = some (m.map Prod.snd) := by
  have hl := dense_length m n h
  have := readBytes_of_read m (m.map Prod.snd) 0 fun i hi => by
    have := read_of_dense m 0 n (by rw [h]; simp) i (by simpa using hi)
    simpa using this
  simpa [hl] using this

end Sys2Proof.Machine
end

