-- ==== Sys2Proof/Laws/State.lean ====
section
/-! SUPPORT. One lemma per field per named update of the state: what the update makes of the field. -/

namespace Sys2Proof.Machine

/-! ## `emit` -/

@[simp] theorem emit_cfg (o : Output) (s : State) : (emit o s).cfg = s.cfg := rfl
@[simp] theorem emit_phase (o : Output) (s : State) : (emit o s).phase = s.phase := rfl
@[simp] theorem emit_result (o : Output) (s : State) : (emit o s).result = s.result := rfl
@[simp] theorem emit_timeout (o : Output) (s : State) : (emit o s).timeout = s.timeout := rfl
@[simp] theorem emit_reqCode (o : Output) (s : State) : (emit o s).reqCode = s.reqCode := rfl
@[simp] theorem emit_reqLen (o : Output) (s : State) : (emit o s).reqLen = s.reqLen := rfl
@[simp] theorem emit_reqData (o : Output) (s : State) : (emit o s).reqData = s.reqData := rfl
@[simp] theorem emit_rspLen (o : Output) (s : State) : (emit o s).rspLen = s.rspLen := rfl
@[simp] theorem emit_rspData (o : Output) (s : State) : (emit o s).rspData = s.rspData := rfl
@[simp] theorem emit_rxBuf (o : Output) (s : State) : (emit o s).rxBuf = s.rxBuf := rfl
@[simp] theorem emit_rxN (o : Output) (s : State) : (emit o s).rxN = s.rxN := rfl
@[simp] theorem emit_inbox (o : Output) (s : State) : (emit o s).inbox = s.inbox := rfl
@[simp] theorem emit_emitted (o : Output) (s : State) : (emit o s).emitted = s.emitted ++ [o] := rfl
@[simp] theorem emit_freeCount (o : Output) (s : State) : (emit o s).freeCount = s.freeCount := rfl

/-! ## `refuse` -/

@[simp] theorem refuse_cfg (s : State) : (refuse s).cfg = s.cfg := rfl
@[simp] theorem refuse_phase (s : State) : (refuse s).phase = s.phase := rfl
@[simp] theorem refuse_result (s : State) : (refuse s).result = s.result := rfl
@[simp] theorem refuse_timeout (s : State) : (refuse s).timeout = s.timeout := rfl
@[simp] theorem refuse_reqCode (s : State) : (refuse s).reqCode = s.reqCode := rfl
@[simp] theorem refuse_reqLen (s : State) : (refuse s).reqLen = s.reqLen := rfl
@[simp] theorem refuse_reqData (s : State) : (refuse s).reqData = s.reqData := rfl
@[simp] theorem refuse_rspLen (s : State) : (refuse s).rspLen = s.rspLen := rfl
@[simp] theorem refuse_rspData (s : State) : (refuse s).rspData = s.rspData := rfl
@[simp] theorem refuse_rxBuf (s : State) : (refuse s).rxBuf = s.rxBuf := rfl
@[simp] theorem refuse_rxN (s : State) : (refuse s).rxN = s.rxN := rfl
@[simp] theorem refuse_inbox (s : State) : (refuse s).inbox = s.inbox := rfl
@[simp] theorem refuse_emitted (s : State) : (refuse s).emitted = s.emitted ++ [.refused] := rfl
@[simp] theorem refuse_freeCount (s : State) : (refuse s).freeCount = s.freeCount := rfl

/-! ## `clearResponse` -/

@[simp] theorem clearResponse_cfg (s : State) : (clearResponse s).cfg = s.cfg := rfl
@[simp] theorem clearResponse_phase (s : State) : (clearResponse s).phase = s.phase := rfl
@[simp] theorem clearResponse_result (s : State) : (clearResponse s).result = s.result := rfl
@[simp] theorem clearResponse_timeout (s : State) : (clearResponse s).timeout = s.timeout := rfl
@[simp] theorem clearResponse_reqCode (s : State) : (clearResponse s).reqCode = s.reqCode := rfl
@[simp] theorem clearResponse_reqLen (s : State) : (clearResponse s).reqLen = s.reqLen := rfl
@[simp] theorem clearResponse_reqData (s : State) : (clearResponse s).reqData = s.reqData := rfl
@[simp] theorem clearResponse_rspLen (s : State) : (clearResponse s).rspLen = 0 := rfl
@[simp] theorem clearResponse_rspData (s : State) : (clearResponse s).rspData = [] := rfl
@[simp] theorem clearResponse_rxBuf (s : State) : (clearResponse s).rxBuf = s.rxBuf := rfl
@[simp] theorem clearResponse_rxN (s : State) : (clearResponse s).rxN = s.rxN := rfl
@[simp] theorem clearResponse_inbox (s : State) : (clearResponse s).inbox = s.inbox := rfl
@[simp] theorem clearResponse_emitted (s : State) : (clearResponse s).emitted = s.emitted := rfl
@[simp] theorem clearResponse_freeCount (s : State) : (clearResponse s).freeCount = s.freeCount := rfl

/-! ## `complete` -/

@[simp] theorem complete_cfg (r : Result) (d : List Byte) (s : State) : (complete r d s).cfg = s.cfg := rfl
@[simp] theorem complete_phase (r : Result) (d : List Byte) (s : State) : (complete r d s).phase = .idle := rfl
@[simp] theorem complete_result (r : Result) (d : List Byte) (s : State) : (complete r d s).result = r := rfl
@[simp] theorem complete_timeout (r : Result) (d : List Byte) (s : State) : (complete r d s).timeout = s.timeout := rfl
@[simp] theorem complete_reqCode (r : Result) (d : List Byte) (s : State) : (complete r d s).reqCode = s.reqCode := rfl
@[simp] theorem complete_reqLen (r : Result) (d : List Byte) (s : State) : (complete r d s).reqLen = s.reqLen := rfl
@[simp] theorem complete_reqData (r : Result) (d : List Byte) (s : State) : (complete r d s).reqData = s.reqData := rfl
@[simp] theorem complete_rspLen (r : Result) (d : List Byte) (s : State) : (complete r d s).rspLen = s.rspLen := rfl
@[simp] theorem complete_rspData (r : Result) (d : List Byte) (s : State) : (complete r d s).rspData = s.rspData := rfl
@[simp] theorem complete_rxBuf (r : Result) (d : List Byte) (s : State) : (complete r d s).rxBuf = s.rxBuf := rfl
@[simp] theorem complete_rxN (r : Result) (d : List Byte) (s : State) : (complete r d s).rxN = s.rxN := rfl
@[simp] theorem complete_inbox (r : Result) (d : List Byte) (s : State) : (complete r d s).inbox = s.inbox := rfl
@[simp] theorem complete_emitted (r : Result) (d : List Byte) (s : State) : (complete r d s).emitted = s.emitted ++ [.done r d] := rfl
@[simp] theorem complete_freeCount (r : Result) (d : List Byte) (s : State) : (complete r d s).freeCount = s.freeCount := rfl

/-! ## `raise` -/

@[simp] theorem raise_cfg (x : Result) (s : State) : (raise x s).cfg = s.cfg := rfl
@[simp] theorem raise_phase (x : Result) (s : State) : (raise x s).phase = .idle := rfl
@[simp] theorem raise_result (x : Result) (s : State) : (raise x s).result = x := rfl
@[simp] theorem raise_timeout (x : Result) (s : State) : (raise x s).timeout = s.timeout := rfl
@[simp] theorem raise_reqCode (x : Result) (s : State) : (raise x s).reqCode = s.reqCode := rfl
@[simp] theorem raise_reqLen (x : Result) (s : State) : (raise x s).reqLen = s.reqLen := rfl
@[simp] theorem raise_reqData (x : Result) (s : State) : (raise x s).reqData = s.reqData := rfl
@[simp] theorem raise_rspLen (x : Result) (s : State) : (raise x s).rspLen = 0 := rfl
@[simp] theorem raise_rspData (x : Result) (s : State) : (raise x s).rspData = [] := rfl
@[simp] theorem raise_rxBuf (x : Result) (s : State) : (raise x s).rxBuf = s.rxBuf := rfl
@[simp] theorem raise_rxN (x : Result) (s : State) : (raise x s).rxN = s.rxN := rfl
@[simp] theorem raise_inbox (x : Result) (s : State) : (raise x s).inbox = s.inbox := rfl
@[simp] theorem raise_emitted (x : Result) (s : State) : (raise x s).emitted = s.emitted ++ [.done x []] := rfl
@[simp] theorem raise_freeCount (x : Result) (s : State) : (raise x s).freeCount = s.freeCount := rfl

/-! ## `requestRead` -/

@[simp] theorem requestRead_cfg (p : Phase) (s : State) : (requestRead p s).cfg = s.cfg := rfl
@[simp] theorem requestRead_phase (p : Phase) (s : State) : (requestRead p s).phase = p := rfl
@[simp] theorem requestRead_result (p : Phase) (s : State) : (requestRead p s).result = s.result := rfl
@[simp] theorem requestRead_timeout (p : Phase) (s : State) : (requestRead p s).timeout = s.timeout := rfl
@[simp] theorem requestRead_reqCode (p : Phase) (s : State) : (requestRead p s).reqCode = s.reqCode := rfl
@[simp] theorem requestRead_reqLen (p : Phase) (s : State) : (requestRead p s).reqLen = s.reqLen := rfl
@[simp] theorem requestRead_reqData (p : Phase) (s : State) : (requestRead p s).reqData = s.reqData := rfl
@[simp] theorem requestRead_rspLen (p : Phase) (s : State) : (requestRead p s).rspLen = s.rspLen := rfl
@[simp] theorem requestRead_rspData (p : Phase) (s : State) : (requestRead p s).rspData = s.rspData := rfl
@[simp] theorem requestRead_rxBuf (p : Phase) (s : State) : (requestRead p s).rxBuf = s.rxBuf := rfl
@[simp] theorem requestRead_rxN (p : Phase) (s : State) : (requestRead p s).rxN = s.rxN := rfl
@[simp] theorem requestRead_inbox (p : Phase) (s : State) : (requestRead p s).inbox = s.inbox := rfl
@[simp] theorem requestRead_emitted (p : Phase) (s : State) : (requestRead p s).emitted = s.emitted ++ [.rxReq s.cfg.bufCap s.timeout] := rfl
@[simp] theorem requestRead_freeCount (p : Phase) (s : State) : (requestRead p s).freeCount = s.freeCount := rfl

/-! ## `setSpace` -/

@[simp] theorem setSpace_cfg (sp : Space) (m : Memory) (s : State) : (setSpace sp m s).cfg = s.cfg := by cases sp <;> rfl
@[simp] theorem setSpace_phase (sp : Space) (m : Memory) (s : State) : (setSpace sp m s).phase = s.phase := by cases sp <;> rfl
@[simp] theorem setSpace_result (sp : Space) (m : Memory) (s : State) : (setSpace sp m s).result = s.result := by cases sp <;> rfl
@[simp] theorem setSpace_timeout (sp : Space) (m : Memory) (s : State) : (setSpace sp m s).timeout = s.timeout := by cases sp <;> rfl
@[simp] theorem setSpace_reqCode (sp : Space) (m : Memory) (s : State) : (setSpace sp m s).reqCode = s.reqCode := by cases sp <;> rfl
@[simp] theorem setSpace_reqLen (sp : Space) (m : Memory) (s : State) : (setSpace sp m s).reqLen = s.reqLen := by cases sp <;> rfl
@[simp] theorem setSpace_reqData (m : Memory) (s : State) : (setSpace .reqData m s).reqData = m := rfl
@[simp] theorem setSpace_rspData_reqData (m : Memory) (s : State) : (setSpace .rspData m s).reqData = s.reqData := rfl
@[simp] theorem setSpace_rxBuf_reqData (m : Memory) (s : State) : (setSpace .rxBuf m s).reqData = s.reqData := rfl
@[simp] theorem setSpace_rspLen (sp : Space) (m : Memory) (s : State) : (setSpace sp m s).rspLen = s.rspLen := by cases sp <;> rfl
@[simp] theorem setSpace_rspData (m : Memory) (s : State) : (setSpace .rspData m s).rspData = m := rfl
@[simp] theorem setSpace_reqData_rspData (m : Memory) (s : State) : (setSpace .reqData m s).rspData = s.rspData := rfl
@[simp] theorem setSpace_rxBuf_rspData (m : Memory) (s : State) : (setSpace .rxBuf m s).rspData = s.rspData := rfl
@[simp] theorem setSpace_rxBuf (m : Memory) (s : State) : (setSpace .rxBuf m s).rxBuf = m := rfl
@[simp] theorem setSpace_reqData_rxBuf (m : Memory) (s : State) : (setSpace .reqData m s).rxBuf = s.rxBuf := rfl
@[simp] theorem setSpace_rspData_rxBuf (m : Memory) (s : State) : (setSpace .rspData m s).rxBuf = s.rxBuf := rfl
@[simp] theorem setSpace_rxN (sp : Space) (m : Memory) (s : State) : (setSpace sp m s).rxN = s.rxN := by cases sp <;> rfl
@[simp] theorem setSpace_inbox (sp : Space) (m : Memory) (s : State) : (setSpace sp m s).inbox = s.inbox := by cases sp <;> rfl
@[simp] theorem setSpace_emitted (sp : Space) (m : Memory) (s : State) : (setSpace sp m s).emitted = s.emitted := by cases sp <;> rfl
@[simp] theorem setSpace_freeCount (sp : Space) (m : Memory) (s : State) : (setSpace sp m s).freeCount = s.freeCount := by cases sp <;> rfl

end Sys2Proof.Machine
end

