-- ==== Sys2Proof/Laws/Ops.lean ====
section
/-! SUPPORT. One lemma per shared operation: everything it can do. -/

namespace Sys2Proof.Machine

@[simp] theorem busy_iff (s : State) : busy s = true ↔ s.phase ≠ .idle := by
  unfold busy
  cases s.phase <;> simp [phaseBits]

theorem statusByte_toNat (s : State) :
    (statusByte s).toNat = (if s.phase = .idle then 0 else 128) + (resultBits s.result).toNat := by
  unfold statusByte busy
  cases s.phase <;> cases s.result <;> rfl

/-! ## The buffer spaces -/

theorem memFill_of_fits (sp : Space) (v : List Byte) (s : State) (h : v.length ≤ spaceSize s.cfg sp) :
    memFill sp v s = .ok (setSpace sp (Memory.writeBytes [] 0 v) s) := by
  simp [memFill, h]

theorem memFill_ok (sp : Space) (v : List Byte) (s t : State) (h : memFill sp v s = .ok t) :
    v.length ≤ spaceSize s.cfg sp ∧ t = setSpace sp (Memory.writeBytes [] 0 v) s := by
  unfold memFill at h
  split at h
  · cases h; exact ⟨‹_›, rfl⟩
  · cases h

/-- The one form of write the block makes leaves a space in canonical form. -/
theorem memFill_wf (sp : Space) (v : List Byte) (s t : State) (h : memFill sp v s = .ok t) :
    (spaceOf t sp).wf = true := by
  obtain ⟨-, rfl⟩ := memFill_ok sp v s t h
  cases sp <;> exact Memory.wf_writeBytes v [] 0 rfl

/-- Every space of the state after reset is in canonical form. -/
theorem reset_wf (sp : Space) : (spaceOf State.reset sp).wf = true := by
  cases sp <;> rfl

theorem memRead_of_dense (sp : Space) (n : Nat) (s : State) (hf : n ≤ spaceSize s.cfg sp)
    (hd : (spaceOf s sp).Dense n) : memRead sp 0 n s = .ok ((spaceOf s sp).map Prod.snd) := by
  simp [memRead, hf, Memory.readBytes_of_dense _ _ hd]

theorem withValue_next {α : Type} (r : Except Fault α) (k : α → Host.Outcome State Fault Refusal) (t : State) :
    withValue r k = .next t ↔ ∃ v, r = .ok v ∧ k v = .next t := by
  cases r <;> simp [withValue]

@[simp] theorem withValue_ok {α : Type} (v : α) (k : α → Host.Outcome State Fault Refusal) :
    withValue (.ok v) k = k v := rfl

@[simp] theorem withValue_error {α : Type} (e : Fault) (k : α → Host.Outcome State Fault Refusal) :
    withValue (.error e) k = .fault e := rfl

/-! ## Starting an exchange -/

theorem startExchange_busy (code : Byte) (data : List Byte) (s : State) (h : s.phase ≠ .idle) :
    startExchange code data s = .next (refuse s) := by
  simp [startExchange, h]

theorem startExchange_overlong (code : Byte) (data : List Byte) (s : State) (h : s.phase = .idle)
    (hn : maxData < data.length) : startExchange code data s = .next (raise .badCommand s) := by
  simp [startExchange, h, hn]

/-- The state after a command is accepted (42_engine_send.md R137). -/
abbrev accepted (code : Byte) (data : List Byte) (s : State) : State :=
  { s with
    phase := .txWait, result := .none, reqCode := code, reqLen := BitVec.ofNat 8 data.length
    reqData := Memory.writeBytes [] 0 data, rspLen := 0, rspData := []
    emitted := s.emitted ++ [.txReq (commandFrame s.cfg code data)] }

theorem startExchange_accepted (code : Byte) (data : List Byte) (s : State) (h : s.phase = .idle)
    (hn : data.length ≤ maxData) : startExchange code data s = .next (accepted code data s) := by
  have hl : (BitVec.ofNat 8 data.length).toNat = data.length := by
    simp only [maxData] at hn
    simp
    omega
  have hr : (Memory.writeBytes [] 0 data).readBytes 0 data.length = some data := Memory.readBytes_writeBytes _ _ _
  simp [startExchange, h, Nat.not_lt.2 hn, latchRequest, memFill, spaceSize, hn, transmitRequest, memRead, hl, spaceOf,
    setSpace, clearResponse, hr, emit]

/-! ## Receiving a transfer -/

/-- The state with a transfer in the receive buffer (10_state.md R34). -/
abbrev holding (b : List Byte) (s : State) : State :=
  { s with rxN := b.length, rxBuf := Memory.writeBytes [] 0 b }

theorem storeTransfer_of_fits (b : List Byte) (s : State) (h : b.length ≤ s.cfg.bufCap) :
    storeTransfer b s = .ok (holding b s) := by
  simp [storeTransfer, memFill, spaceSize, h, setSpace]

theorem storeTransfer_ok (b : List Byte) (s t : State) (h : storeTransfer b s = .ok t) :
    b.length ≤ s.cfg.bufCap ∧ t = holding b s := by
  obtain ⟨h1, rfl⟩ := memFill_ok _ _ _ _ h
  exact ⟨h1, rfl⟩

theorem holding_holds (b : List Byte) (s : State) : HoldsTransfer b (holding b s) :=
  ⟨rfl, fun a h => by simp [Memory.read_fill, h]⟩

theorem receive_dropped (b : List Byte) (s : State) (f g : State → Host.Outcome State Fault Refusal)
    (h : s.phase = .idle ∨ s.phase = .txWait) : receive b s f g = .next s := by
  rcases h with h | h <;> simp [receive, h]

theorem receive_ackWait (b : List Byte) (s : State) (f g : State → Host.Outcome State Fault Refusal)
    (h : s.phase = .ackWait) (hf : b.length ≤ s.cfg.bufCap) : receive b s f g = f (holding b s) := by
  simp [receive, h, storeTransfer_of_fits b s hf]

theorem receive_rspWait (b : List Byte) (s : State) (f g : State → Host.Outcome State Fault Refusal)
    (h : s.phase = .rspWait) (hf : b.length ≤ s.cfg.bufCap) : receive b s f g = g (holding b s) := by
  simp [receive, h, storeTransfer_of_fits b s hf]

/-- Everything `receive` can do when it answers a next state. -/
theorem receive_next (b : List Byte) (s t : State) (f g : State → Host.Outcome State Fault Refusal)
    (h : receive b s f g = .next t) :
    ((s.phase = .idle ∨ s.phase = .txWait) ∧ t = s) ∨
    (b.length ≤ s.cfg.bufCap ∧
      ((s.phase = .ackWait ∧ f (holding b s) = .next t) ∨ (s.phase = .rspWait ∧ g (holding b s) = .next t))) := by
  unfold receive at h
  split at h
  · cases h; exact .inl ⟨.inl ‹_›, rfl⟩
  · cases h; exact .inl ⟨.inr ‹_›, rfl⟩
  · obtain ⟨u, hu, hk⟩ := (withValue_next _ _ _).1 h
    obtain ⟨h1, rfl⟩ := storeTransfer_ok _ _ _ hu
    exact .inr ⟨h1, .inl ⟨‹_›, hk⟩⟩
  · obtain ⟨u, hu, hk⟩ := (withValue_next _ _ _).1 h
    obtain ⟨h1, rfl⟩ := storeTransfer_ok _ _ _ hu
    exact .inr ⟨h1, .inr ⟨‹_›, hk⟩⟩

/-! ## Delivering a result -/

/-- The state after the data `d` is delivered (42_engine_send.md R151). -/
abbrev delivered (d : List Byte) (s : State) : State :=
  { s with
    phase := .idle, result := .ok, rspLen := BitVec.ofNat 8 d.length, rspData := Memory.writeBytes [] 0 d
    emitted := s.emitted ++ [.done .ok d] }

theorem slice_two (p0 p1 : Byte) (d : List Byte) : slice (p0 :: p1 :: d) 2 d.length = d := by simp [slice]

theorem deliver_of_fits (p0 p1 : Byte) (d : List Byte) (s : State) (h : d.length ≤ s.cfg.bufCap - 8) :
    deliver (p0 :: p1 :: d) s = .next (delivered d s) := by
  simp [deliver, slice_two, memFill, spaceSize, h, setSpace, complete, emit]

theorem deliver_next (p0 p1 : Byte) (d : List Byte) (s t : State) (h : deliver (p0 :: p1 :: d) s = .next t) :
    d.length ≤ s.cfg.bufCap - 8 ∧ t = delivered d s := by
  by_cases hf : d.length ≤ s.cfg.bufCap - 8
  · rw [deliver_of_fits _ _ _ _ hf] at h; cases h; exact ⟨hf, rfl⟩
  · simp [deliver, slice_two, memFill, spaceSize, hf] at h

/-! ## Raising a failure -/

theorem raise_raises (x : Result) (s : State) : Raises x s (raise x s) :=
  ⟨rfl, rfl, rfl, rfl, ⟨rfl, rfl, rfl, rfl, rfl, rfl, rfl⟩⟩

theorem raise_keepsTransfer (x : Result) (s : State) : KeepsTransfer s (raise x s) := ⟨rfl, rfl⟩

theorem requestRead_requests (p : Phase) (s : State) : RequestsRead p s (requestRead p s) :=
  ⟨rfl, rfl, rfl, rfl, rfl, ⟨rfl, rfl, rfl, rfl, rfl, rfl, rfl⟩⟩

theorem requestRead_keepsTransfer (p : Phase) (s : State) : KeepsTransfer s (requestRead p s) := ⟨rfl, rfl⟩

end Sys2Proof.Machine
end

