-- ==== Sys2Proof/Laws/PerInstr.lean ====
section
/-! SUPPORT. Statements made of every instruction as syntax, one lemma per constructor. Family `Canon`: the row the
decoder reads from an instruction's words has the same words and the same well-formedness as the instruction. -/

/-- The canonical row of `i` has the words of `i`, is well-formed exactly when `i` is, and is its own canonical row. -/
def Sys2Proof.Laws.Canon.Statement (i : Sys2Proof.Instr) : Prop :=
  ∀ c : Sys2Proof.Config,
    Sys2Proof.encode c (Sys2Proof.canon c i) = Sys2Proof.encode c i ∧
    Sys2Proof.WellFormed c (Sys2Proof.canon c i) = Sys2Proof.WellFormed c i ∧
    Sys2Proof.canon c (Sys2Proof.canon c i) = Sys2Proof.canon c i

namespace Sys2Proof.Laws.Canon

theorem ack (rest : List Byte) : Statement (.ack rest) := fun _ => ⟨rfl, rfl, rfl⟩
theorem cmd (code : Byte) (data : List Byte) : Statement (.cmd code data) := fun _ => ⟨rfl, rfl, rfl⟩
theorem rsp (payload rest : List Byte) : Statement (.rsp payload rest) := fun _ => ⟨rfl, rfl, rfl⟩
theorem malformed (b : List Byte) : Statement (.malformed b) := fun _ => ⟨rfl, rfl, rfl⟩
theorem send (code : Byte) (data : List Byte) : Statement (.send code data) := fun _ => ⟨rfl, rfl, rfl⟩
theorem setto (t : Word32) : Statement (.setto t) := fun _ => ⟨rfl, rfl, rfl⟩
theorem rdres : Statement .rdres := fun _ => ⟨rfl, rfl, rfl⟩
theorem reset : Statement .reset := fun _ => ⟨rfl, rfl, rfl⟩
theorem encode (code : Byte) (data : List Byte) : Statement (.encode code data) := fun _ => ⟨rfl, rfl, rfl⟩
theorem decode (b : List Byte) : Statement (.decode b) := fun _ => ⟨rfl, rfl, rfl⟩
theorem cmdSetCommandType (data : List Byte) : Statement (.cmdSetCommandType data) := fun _ => ⟨rfl, rfl, rfl⟩
theorem cmdGetFirmwareVersion (data : List Byte) : Statement (.cmdGetFirmwareVersion data) := fun _ => ⟨rfl, rfl, rfl⟩
theorem cmdGetPDDataVersion (data : List Byte) : Statement (.cmdGetPDDataVersion data) := fun _ => ⟨rfl, rfl, rfl⟩
theorem cmdSwitchRF (data : List Byte) : Statement (.cmdSwitchRF data) := fun _ => ⟨rfl, rfl, rfl⟩
theorem cmdInSetRF (data : List Byte) : Statement (.cmdInSetRF data) := fun _ => ⟨rfl, rfl, rfl⟩
theorem cmdInSetProtocol (data : List Byte) : Statement (.cmdInSetProtocol data) := fun _ => ⟨rfl, rfl, rfl⟩
theorem cmdInCommRF (data : List Byte) : Statement (.cmdInCommRF data) := fun _ => ⟨rfl, rfl, rfl⟩

end Sys2Proof.Laws.Canon
end

