-- ==== Sys2Proof/Laws/Step.lean ====
section
/-! SUPPORT. What a step can do, said once: `Transition s i t` lists every way the block handles the event `i`, one
constructor per rule of 42_engine_send.md and 43_host_port_ops.md, and `handle_transition` and `step_cases` say that
there is no other. -/

namespace Sys2Proof.Machine

/-- Every way of handling an event that answers a next state. -/
inductive Transition (s : State) : Input → State → Prop where
  /-- 43_host_port_ops.md R178. -/
  | unknownOpsel (x : HostTxn) (h : x.opsel ≠ 0x01 ∧ x.opsel ≠ 0x02 ∧ x.opsel ≠ 0x03 ∧ x.opsel ≠ 0x04) :
      Transition s (.host x) (refuse s)
  /-- 42_engine_send.md R136, 43_host_port_ops.md R173. -/
  | refusedBusy (x : HostTxn) (h : x.opsel = 0x01 ∨ x.opsel = 0x02) (hb : s.phase ≠ .idle) :
      Transition s (.host x) (refuse s)
  /-- 42_engine_send.md R137. -/
  | accepted (x : HostTxn) (h : x.opsel = 0x01) (hi : s.phase = .idle) (hn : x.data.length ≤ maxData) :
      Transition s (.host x) (accepted x.code x.data s)
  /-- 42_engine_send.md R138. -/
  | badCommand (x : HostTxn) (h : x.opsel = 0x01) (hi : s.phase = .idle) (hn : maxData < x.data.length) :
      Transition s (.host x) (raise .badCommand s)
  /-- 43_host_port_ops.md R172. -/
  | setto (x : HostTxn) (h : x.opsel = 0x02) (hi : s.phase = .idle) :
      Transition s (.host x) { s with timeout := x.t }
  /-- 43_host_port_ops.md R174. -/
  | rdres (x : HostTxn) (h : x.opsel = 0x03) (data : List Byte) (hd : memRead .rspData 0 s.rspLen.toNat s = .ok data) :
      Transition s (.host x) (emit (.results (statusByte s) s.timeout s.rspLen data) s)
  /-- 43_host_port_ops.md R176. -/
  | reset (x : HostTxn) (h : x.opsel = 0x04) (t : State) (ht : execReset s = .next t) :
      Transition s (.host x) t
  /-- 42_engine_send.md R152. -/
  | dropped (i : Input) (ht : fromTransport i = true) (ha : answersRequest s.phase i = false) :
      Transition s i s
  /-- 70_reset_and_hazards.md R234. -/
  | transportOpen : Transition s .transportOpen s
  /-- 70_reset_and_hazards.md R234. -/
  | transportClose : Transition s .transportClose s
  /-- 42_engine_send.md R139. -/
  | txOk (h : s.phase = .txWait) : Transition s .txOk (requestRead .ackWait s)
  /-- 42_engine_send.md R140. -/
  | txErr (h : s.phase = .txWait) : Transition s .txErr (raise .transportWriteError s)
  /-- 42_engine_send.md R141, R146. -/
  | rxTimeout (h : s.phase = .ackWait ∨ s.phase = .rspWait) : Transition s .rxTimeout (raise .timeout s)
  /-- 42_engine_send.md R142, R147. -/
  | rxErr (h : s.phase = .ackWait ∨ s.phase = .rspWait) : Transition s .rxErr (raise .transportReadError s)
  /-- 42_engine_send.md R145. -/
  | ackFirst (b : List Byte) (h : s.phase = .ackWait) (hf : b.length ≤ s.cfg.bufCap) (hd : decodeFrame s.cfg b = .ack) :
      Transition s (.rxData b) (requestRead .rspWait (holding b s))
  /-- 42_engine_send.md R149. -/
  | ackSecond (b : List Byte) (h : s.phase = .rspWait) (hf : b.length ≤ s.cfg.bufCap)
      (hd : decodeFrame s.cfg b = .ack) : Transition s (.rxData b) (raise .mismatch (holding b s))
  /-- 42_engine_send.md R144. -/
  | unexpected (b p : List Byte) (h : s.phase = .ackWait) (hf : b.length ≤ s.cfg.bufCap)
      (hd : decodeFrame s.cfg b = .response p) :
      Transition s (.rxData b) (raise .unexpectedResponse (holding b s))
  /-- 42_engine_send.md R150. -/
  | mismatch (b p : List Byte) (h : s.phase = .rspWait) (hf : b.length ≤ s.cfg.bufCap)
      (hd : decodeFrame s.cfg b = .response p) (hc : correlates p s.reqCode = false) :
      Transition s (.rxData b) (raise .mismatch (holding b s))
  /-- 42_engine_send.md R151. -/
  | delivered (b d : List Byte) (h : s.phase = .rspWait) (hf : b.length ≤ s.cfg.bufCap)
      (hd : decodeFrame s.cfg b = .response (dirRx :: inc8 s.reqCode :: d)) (hn : d.length ≤ s.cfg.bufCap - 8) :
      Transition s (.rxData b) (delivered d (holding b s))
  /-- 42_engine_send.md R143. -/
  | badAck (b : List Byte) (h : s.phase = .ackWait) (hf : b.length ≤ s.cfg.bufCap)
      (hd : decodeFrame s.cfg b = .malformed) : Transition s (.rxData b) (raise .badAck (holding b s))
  /-- 42_engine_send.md R148. -/
  | badResponse (b : List Byte) (h : s.phase = .rspWait) (hf : b.length ≤ s.cfg.bufCap)
      (hd : decodeFrame s.cfg b = .malformed) : Transition s (.rxData b) (raise .badResponse (holding b s))

theorem answers_rxData_false (s : State) (b : List Byte) (h : s.phase = .idle ∨ s.phase = .txWait) :
    answersRequest s.phase (.rxData b) = false := by
  rcases h with h | h <;> rw [h] <;> rfl

/-- The bytes a decoded instruction stands for are the buffer it was decoded from. -/
theorem decodeRx_bytes (c : Config) (b : List Byte) :
    (∃ rest, decodeFrame c b = .ack ∧ decodeRx c b = .ack rest ∧ c.ackPattern ++ rest = b) ∨
    (∃ p rest, decodeFrame c b = .response p ∧ decodeRx c b = .rsp p rest ∧ normalFrame p rest = b) ∨
    (decodeFrame c b = .malformed ∧ decodeRx c b = .malformed b) := by
  unfold decodeRx
  cases h : decodeFrame c b with
  | ack =>
    obtain ⟨t, rfl⟩ := prefix_of_decodeFrame_ack c b h
    exact .inl ⟨t, rfl, by simp, rfl⟩
  | response p => exact .inr (.inl ⟨p, _, rfl, rfl, (decodeFrame_response c b p h).2.2.1.symm⟩)
  | malformed => exact .inr (.inr ⟨rfl, rfl⟩)

theorem rxData_transition (s t : State) (b : List Byte) (h : exec (decodeRx s.cfg b) s = .next t) :
    Transition s (.rxData b) t := by
  rcases decodeRx_bytes s.cfg b with ⟨rest, hd, he, hb⟩ | ⟨p, rest, hd, he, hb⟩ | ⟨hd, he⟩ <;> rw [he] at h
  · simp only [exec, execAck, hb] at h
    rcases receive_next _ _ _ _ _ h with ⟨hp, rfl⟩ | ⟨hf, ⟨hp, hk⟩ | ⟨hp, hk⟩⟩
    · exact .dropped _ rfl (answers_rxData_false _ _ hp)
    · cases hk; exact .ackFirst b hp hf hd
    · cases hk; exact .ackSecond b hp hf hd
  · simp only [exec, execRsp, hb] at h
    rcases receive_next _ _ _ _ _ h with ⟨hp, rfl⟩ | ⟨hf, ⟨hp, hk⟩ | ⟨hp, hk⟩⟩
    · exact .dropped _ rfl (answers_rxData_false _ _ hp)
    · cases hk; exact .unexpected b p hp hf hd
    · by_cases hc : correlates p s.reqCode = true
      · obtain ⟨d, rfl⟩ := (correlates_iff _ _).1 hc
        rw [if_pos hc] at hk
        obtain ⟨hn, rfl⟩ := deliver_next _ _ _ _ _ hk
        exact .delivered b d hp hf hd hn
      · rw [if_neg hc] at hk
        cases hk
        exact .mismatch b p hp hf hd (by simpa using hc)
  · simp only [exec, execMalformed] at h
    rcases receive_next _ _ _ _ _ h with ⟨hp, rfl⟩ | ⟨hf, ⟨hp, hk⟩ | ⟨hp, hk⟩⟩
    · exact .dropped _ rfl (answers_rxData_false _ _ hp)
    · cases hk; exact .badAck b hp hf hd
    · cases hk; exact .badResponse b hp hf hd

theorem host_transition (s t : State) (x : HostTxn) (h : handle (.host x) s = .next t) :
    Transition s (.host x) t := by
  simp only [handle, decodeHost] at h
  by_cases h1 : x.opsel = 0x01
  · simp only [h1, if_true, exec, execSend] at h
    by_cases hp : s.phase = .idle
    · by_cases hn : x.data.length ≤ maxData
      · rw [startExchange_accepted _ _ _ hp hn] at h; cases h; exact .accepted x h1 hp hn
      · rw [startExchange_overlong _ _ _ hp (by omega)] at h; cases h; exact .badCommand x h1 hp (by omega)
    · rw [startExchange_busy _ _ _ hp] at h; cases h; exact .refusedBusy x (.inl h1) hp
  · by_cases h2 : x.opsel = 0x02
    · simp only [if_neg h1, if_pos h2, exec, execSetto, busy_iff] at h
      split at h
      · cases h; exact .refusedBusy x (.inr h2) ‹_›
      · cases h; exact .setto x h2 (by simpa using ‹¬ s.phase ≠ .idle›)
    · by_cases h3 : x.opsel = 0x03
      · simp only [if_neg h1, if_neg h2, if_pos h3, exec, execRdres] at h
        obtain ⟨d, hd, hk⟩ := (withValue_next _ _ _).1 h
        cases hk; exact .rdres x h3 d hd
      · by_cases h4 : x.opsel = 0x04
        · simp only [if_neg h1, if_neg h2, if_neg h3, if_pos h4, exec] at h
          exact .reset x h4 t h
        · simp only [if_neg h1, if_neg h2, if_neg h3, if_neg h4] at h
          cases h; exact .unknownOpsel x ⟨h1, h2, h3, h4⟩

/-- Handling an event does nothing that is not a transition. -/
theorem handle_transition (s t : State) (i : Input) (h : handle i s = .next t) : Transition s i t := by
  cases i with
  | host x => exact host_transition s t x h
  | rxData b => exact rxData_transition s t b h
  | txOk =>
    simp only [handle, onTxOk] at h
    split at h <;> cases h
    · exact .txOk ‹_›
    all_goals exact .dropped _ rfl (by simp only [*]; rfl)
  | txErr =>
    simp only [handle, onTxErr] at h
    split at h <;> cases h
    · exact .txErr ‹_›
    all_goals exact .dropped _ rfl (by simp only [*]; rfl)
  | rxTimeout =>
    simp only [handle, onRxTimeout, readFails] at h
    split at h <;> cases h
    · exact .rxTimeout (.inl ‹_›)
    · exact .rxTimeout (.inr ‹_›)
    all_goals exact .dropped _ rfl (by simp only [*]; rfl)
  | rxErr =>
    simp only [handle, onRxErr, readFails] at h
    split at h <;> cases h
    · exact .rxErr (.inl ‹_›)
    · exact .rxErr (.inr ‹_›)
    all_goals exact .dropped _ rfl (by simp only [*]; rfl)
  | transportOpen => cases h; exact .transportOpen
  | transportClose => cases h; exact .transportClose

/-! ## Forward: what a received buffer does, by its verdict -/

/-- The state after a buffer that fits is received in `ACK_WAIT` (42_engine_send.md R143, R144, R145). -/
theorem handle_rxData_ackWait (s : State) (b : List Byte) (h : s.phase = .ackWait) (hf : b.length ≤ s.cfg.bufCap) :
    handle (.rxData b) s = .next (match decodeFrame s.cfg b with
      | .ack => requestRead .rspWait (holding b s)
      | .response _ => raise .unexpectedResponse (holding b s)
      | .malformed => raise .badAck (holding b s)) := by
  simp only [handle]
  rcases decodeRx_bytes s.cfg b with ⟨rest, hd, he, hb⟩ | ⟨p, rest, hd, he, hb⟩ | ⟨hd, he⟩ <;> rw [he, hd]
  · simp only [exec, execAck, hb]; exact receive_ackWait _ _ _ _ h hf
  · simp only [exec, execRsp, hb]; exact receive_ackWait _ _ _ _ h hf
  · simp only [exec, execMalformed]; exact receive_ackWait _ _ _ _ h hf

/-- The state after a buffer that fits is received in `RSP_WAIT` (42_engine_send.md R148 to R151). -/
theorem handle_rxData_rspWait (s : State) (b : List Byte) (h : s.phase = .rspWait) (hf : b.length ≤ s.cfg.bufCap) :
    handle (.rxData b) s = .next (match decodeFrame s.cfg b with
      | .ack => raise .mismatch (holding b s)
      | .response p =>
        if correlates p s.reqCode then delivered (p.drop 2) (holding b s) else raise .mismatch (holding b s)
      | .malformed => raise .badResponse (holding b s)) := by
  simp only [handle]
  rcases decodeRx_bytes s.cfg b with ⟨rest, hd, he, hb⟩ | ⟨p, rest, hd, he, hb⟩ | ⟨hd, he⟩ <;> rw [he, hd]
  · simp only [exec, execAck, hb]; exact receive_rspWait _ _ _ _ h hf
  · simp only [exec, execRsp, hb]
    rw [receive_rspWait _ _ _ _ h hf]
    by_cases hc : correlates p s.reqCode = true
    · obtain ⟨d, rfl⟩ := (correlates_iff _ _).1 hc
      have hl := (decodeFrame_response _ _ _ hd).2.1
      simp only [hc, if_true]
      exact deliver_of_fits _ _ _ _ (by simp only [List.length_cons] at hl; simp only; omega)
    · simp only [hc]; rfl
  · simp only [exec, execMalformed]; exact receive_rspWait _ _ _ _ h hf

/-- A received buffer has no transition in `IDLE` and `TX_WAIT` (42_engine_send.md R152). -/
theorem handle_rxData_dropped (s : State) (b : List Byte) (h : s.phase = .idle ∨ s.phase = .txWait) :
    handle (.rxData b) s = .next s := by
  simp only [handle]
  rcases decodeRx_bytes s.cfg b with ⟨rest, hd, he, hb⟩ | ⟨p, rest, hd, he, hb⟩ | ⟨hd, he⟩ <;> rw [he]
  · exact receive_dropped _ _ _ _ h
  · exact receive_dropped _ _ _ _ h
  · exact receive_dropped _ _ _ _ h

/-- A step waits with no event to come, or takes the next event by one transition. -/
theorem step_cases (s t : State) (h : step s = .next t) :
    (s.inbox = [] ∧ t = s) ∨
    ∃ i later, s.inbox = i :: later ∧ Transition { s with inbox := later } i t := by
  unfold step nextEvent at h
  split at h
  · cases h; exact .inl ⟨‹_›, rfl⟩
  · exact .inr ⟨_, _, ‹_›, handle_transition _ _ _ h⟩

theorem step_of_event (s : State) (i : Input) (later : List Input) (h : s.inbox = i :: later) :
    step s = handle i { s with inbox := later } := by
  simp [step, nextEvent, h]

end Sys2Proof.Machine
end

