-- ==== Sys2Proof/Tests/Slice0.lean ====
section
/-! SUPPORT. Tests: expected results are the spec's own (95_test_vectors.md, the rules' examples) or hand calculations
from its formulas. `test_` checks the model; `witness_` meets the hypotheses of the statement it names. -/

namespace Sys2Proof.Tests

open Sys2Proof Sys2Proof.Machine

/-- The reset state with a phase and the timeout 1000. -/
def at_ (p : Phase) : State := { State.reset with phase := p, timeout := 1000 }

/-- The state an outcome goes on in. -/
def nextOf : Host.Outcome State Fault Refusal → Option State
  | .next s => some s
  | .fault _ => none
  | .refused _ => none

/-- What an outcome has emitted. -/
def outOf (o : Host.Outcome State Fault Refusal) : Option (List Output) := (nextOf o).map (·.emitted)

/-- The observable registers: `PHASE`, `RESULT`, `RSP_LEN`, `TIMEOUT`. -/
def regsOf (o : Host.Outcome State Fault Refusal) : Option (Phase × Result × Byte × Word32) :=
  (nextOf o).map fun s => (s.phase, s.result, s.rspLen, s.timeout)

/-- The default configuration with `BUF_CAP = 16` (VD23, VD24). -/
def cap16 : Config := { defaultConfig with bufCap := 16 }

/-! ## Well-formedness: an ill-formed term for each check -/

theorem test_wf_ack_overlong : WellFormed cap16 (.ack (List.replicate 11 0)) = false := by decide
theorem test_wf_ack : WellFormed cap16 (.ack (List.replicate 10 0)) = true := by decide
theorem test_wf_cmd_254 : WellFormed defaultConfig (.cmd 0 (List.replicate 254 0)) = false := by decide +kernel
theorem test_wf_rsp_overlong : WellFormed cap16 (.rsp (List.replicate 11 1) []) = false := by decide
theorem test_wf_rsp_payload_256 :
    WellFormed { defaultConfig with bufCap := 300 } (.rsp (List.replicate 256 0) []) = false := by decide +kernel
theorem test_wf_rsp_is_ack :
    WellFormed { defaultConfig with ackPattern := [0x00, 0x00, 0xFF] } (.rsp [0xD7, 0xD8] []) = false := by decide
theorem test_wf_rsp : WellFormed cap16 (.rsp [0xD7, 0xD8] []) = true := by decide
theorem test_wf_malformed_is_ack : WellFormed defaultConfig (.malformed defaultAckPattern) = false := by decide
theorem test_wf_malformed_overlong : WellFormed cap16 (.malformed (List.replicate 17 0)) = false := by decide
theorem test_wf_encode_254 : WellFormed defaultConfig (.encode 0 (List.replicate 254 0)) = false := by decide +kernel
theorem test_wf_decode_overlong : WellFormed cap16 (.decode (List.replicate 17 0)) = false := by decide
theorem test_wf_symbolic_254 : WellFormed defaultConfig (.cmdInCommRF (List.replicate 254 0)) = false := by decide +kernel

/-! ## Words written out from the spec -/

/-- VD3: bytes after the pattern are don't-care. -/
theorem test_decode_ack_tail :
    decode defaultConfig (.rx [0x00, 0x00, 0xFF, 0x00, 0xFF, 0x00, 0xAA, 0x55]) = .ok (.ack [0xAA, 0x55]) := by decide
/-- VD12: no postamble in the buffer. -/
theorem test_decode_rsp :
    decode defaultConfig (.rx [0x00, 0x00, 0xFF, 0x03, 0xFD, 0xD7, 0xD8, 0x01, 0x50]) =
      .ok (.rsp [0xD7, 0xD8, 0x01] []) := by decide
/-- VD15: `LEN = 0`. -/
theorem test_decode_rsp_empty :
    decode defaultConfig (.rx [0x00, 0x00, 0xFF, 0x00, 0x00, 0x00]) = .ok (.rsp [] []) := by decide
/-- VD13: a command frame read back is a response. -/
theorem test_decode_rx_of_command :
    decode defaultConfig (.rx [0x00, 0x00, 0xFF, 0x02, 0xFE, 0xD6, 0xD7, 0x53, 0x00]) =
      .ok (.rsp [0xD6, 0xD7] [0x00]) := by decide
/-- VD4, VD5, VD8, VD14, VD16, VD17: too short, empty, relation 1, truncated, no `DCS`, shifted. -/
theorem test_decode_malformed :
    ([[0x00, 0x00, 0xFF, 0x00, 0xFF], [], [0x00, 0x00, 0xFF, 0x03, 0xFC, 0xD7, 0xD8, 0x01, 0x50, 0x00],
      [0x00, 0x00, 0xFF, 0x03, 0xFD, 0xD7, 0xD8, 0x01], [0x00, 0x00, 0xFF, 0x00, 0x00],
      [0x00, 0x00, 0x00, 0xFF, 0x03, 0xFD, 0xD7, 0xD8, 0x01, 0x50, 0x00]] : List (List Byte)).map
        (decodeFrame defaultConfig) = List.replicate 6 .malformed := by decide
/-- VD23 and VD24: the bound `N = 6 + LEN` with `BUF_CAP = 16`. -/
theorem test_decode_at_capacity :
    decodeFrame cap16 [0x00, 0x00, 0xFF, 0x0A, 0xF6, 0xD7, 0xD8, 1, 1, 1, 1, 1, 1, 1, 1, 0x49] =
      .response [0xD7, 0xD8, 1, 1, 1, 1, 1, 1, 1, 1] ∧
    decodeFrame cap16 [0x00, 0x00, 0xFF, 0x0B, 0xF5, 0xD7, 0xD8, 1, 1, 1, 1, 1, 1, 1, 1, 1] = .malformed := by decide
/-- VE6, from the outbound port. -/
theorem test_decode_cmd :
    decode defaultConfig (.tx [0x00, 0x00, 0xFF, 0x0A, 0xF6, 0xD6, 0x04, 0x6E, 0x00, 0x06, 0x00, 0xFF, 0xFF, 0x01, 0x00,
      0xB3, 0x00]) = .ok (.cmd 0x04 [0x6E, 0x00, 0x06, 0x00, 0xFF, 0xFF, 0x01, 0x00]) := by decide
/-- An outbound transfer with a wrong checksum is no command frame. -/
theorem test_decode_tx_bad :
    decode defaultConfig (.tx [0x00, 0x00, 0xFF, 0x02, 0xFE, 0xD6, 0xD7, 0x54, 0x00]) = .error .notACommandFrame := by decide
/-- VE7 with the code of `CMD.switch-RF`; the six other symbolic rows by their default codes. -/
theorem test_encode_symbolic :
    encode defaultConfig (.cmdSwitchRF [0x00]) =
      some (.tx [0x00, 0x00, 0xFF, 0x03, 0xFD, 0xD6, 0x06, 0x00, 0x24, 0x00]) ∧
    [Instr.cmdSetCommandType [], .cmdGetFirmwareVersion [], .cmdGetPDDataVersion [], .cmdInSetRF [],
      .cmdInSetProtocol [], .cmdInCommRF []].map (canon defaultConfig) =
      [.cmd 0x2A [], .cmd 0x20 [], .cmd 0x22 [], .cmd 0x00 [], .cmd 0x02 [], .cmd 0x04 []] := by decide
/-- VH10: `OPSEL` 00, 05, FF. -/
theorem test_decode_opsel :
    ([0x00, 0x05, 0xFF] : List Byte).map (fun o => decode defaultConfig (.host ⟨o, 0, [], 0⟩)) =
      [.error (.unknownOpsel 0x00), .error (.unknownOpsel 0x05), .error (.unknownOpsel 0xFF)] := by decide
/-- The rows of one byte and the row `RSP` (bytes `00 00 FF`, then zeros: VD15's second buffer). -/
theorem test_tableWords :
    [1, 2, 3, 4, 5].map (decodeTableWord 8) =
      [some (.send 0 []), some (.setto 0), some .rdres, some .reset, none] ∧
    decodeTableWord 24 0xFF = some (.rsp [] (List.replicate 249 0)) := by decide +kernel
/-- The row `ACK`, 48 bits, first byte most significant. -/
theorem test_tableWord_ack : decodeTableWord 48 0x0000FF00FF00 = some (.ack (List.replicate 249 0)) := by decide +kernel
/-- A placed row runs as the first step after reset. -/
theorem test_step_placed :
    (nextOf (step (State.reset.withFetchWord 8 1))).map (·.phase) = some .txWait ∧
    (nextOf (step (State.reset.withFetchWord 24 0xFF))).map (·.phase) = some .idle := by decide +kernel

/-! ## Primitives (VP1 to VP12) -/

theorem test_sum8 :
    ([[0xD6, 0xD7], [0xD7, 0xD8, 0x01], [0xD6, 0xFF, 0xFF, 0xFF], []] : List (List Byte)).map sum8 =
      [0xAD, 0xB0, 0xD3, 0x00] := by decide
theorem test_neg8 : ([0x00, 0x01, 0x80, 0xAD, 0xFF] : List Byte).map neg8 = [0x00, 0xFF, 0x80, 0x53, 0x01] := by decide
theorem test_inc8 : ([0xD7, 0xFF, 0x00] : List Byte).map inc8 = [0xD8, 0x00, 0x01] := by decide
/-- The numbers of 10_state.md R22 and R25. -/
theorem test_codes :
    [Phase.idle, .txWait, .ackWait, .rspWait].map phaseBits = [0, 1, 2, 3] ∧
    [Result.none, .ok, .transportWriteError, .transportReadError, .timeout, .badAck, .unexpectedResponse, .badResponse,
      .mismatch, .badCommand].map resultBits = [0, 1, 2, 3, 4, 5, 6, 7, 8, 9] := by decide

/-! ## Memory: reading after writing, the canonical form -/

theorem test_write_replaces_and_sorts :
    Memory.write (Memory.write (Memory.write [] 5 1) 3 2) 5 9 = [(3, 2), (5, 9)] := by decide
theorem test_read_unlisted : Memory.read (Memory.write [] 5 1) 4 = none := by decide

/-! ## Host operations -/

/-- VE1. -/
theorem test_send_emits_the_frame :
    outOf (exec (.send 0xD7 []) (at_ .idle)) =
      some [.txReq [0x00, 0x00, 0xFF, 0x02, 0xFE, 0xD6, 0xD7, 0x53, 0x00]] := by decide
/-- VX17. -/
theorem test_send_254_is_bad_command :
    regsOf (exec (.send 0x00 (List.replicate 254 0)) (at_ .idle)) = some (.idle, .badCommand, 0, 1000) ∧
    outOf (exec (.send 0x00 (List.replicate 254 0)) (at_ .idle)) = some [.done .badCommand []] := by decide +kernel
/-- VE3, through the row `CMD`. -/
theorem test_cmd_sum_multiple_of_256 :
    outOf (exec (.cmd 0x2A []) (at_ .idle)) =
      some [.txReq [0x00, 0x00, 0xFF, 0x02, 0xFE, 0xD6, 0x2A, 0x00, 0x00]] := by decide
/-- P3: the in-comm-RF command with code 04. -/
theorem test_cmdInCommRF :
    outOf (exec (.cmdInCommRF [0x6E, 0x00, 0x06, 0x00, 0xFF, 0xFF, 0x01, 0x00]) (at_ .idle)) =
      some [.txReq [0x00, 0x00, 0xFF, 0x0A, 0xF6, 0xD6, 0x04, 0x6E, 0x00, 0x06, 0x00, 0xFF, 0xFF, 0x01, 0x00, 0xB3,
        0x00]] := by decide
/-- VE2, VE3, VE8: the frames of in-set-RF, set-command-type and get-firmware-version; the others from R100. -/
theorem test_symbolic_frames :
    [exec (.cmdInSetRF []) (at_ .idle), exec (.cmdSetCommandType []) (at_ .idle),
      exec (.cmdGetFirmwareVersion []) (at_ .idle), exec (.cmdGetPDDataVersion []) (at_ .idle),
      exec (.cmdSwitchRF []) (at_ .idle), exec (.cmdInSetProtocol []) (at_ .idle)].map outOf =
    [some [.txReq [0x00, 0x00, 0xFF, 0x02, 0xFE, 0xD6, 0x00, 0x2A, 0x00]],
     some [.txReq [0x00, 0x00, 0xFF, 0x02, 0xFE, 0xD6, 0x2A, 0x00, 0x00]],
     some [.txReq [0x00, 0x00, 0xFF, 0x02, 0xFE, 0xD6, 0x20, 0x0A, 0x00]],
     some [.txReq [0x00, 0x00, 0xFF, 0x02, 0xFE, 0xD6, 0x22, 0x08, 0x00]],
     some [.txReq [0x00, 0x00, 0xFF, 0x02, 0xFE, 0xD6, 0x06, 0x24, 0x00]],
     some [.txReq [0x00, 0x00, 0xFF, 0x02, 0xFE, 0xD6, 0x02, 0x28, 0x00]]] := by decide
/-- VX18: refused in flight, `TIMEOUT` unchanged. -/
theorem test_setto_refused_in_flight :
    regsOf (exec (.setto 5) (at_ .txWait)) = some (.txWait, .none, 0, 1000) ∧
    outOf (exec (.setto 5) (at_ .txWait)) = some [.refused] := by decide
/-- VH11: `SETTO` does not clear `RESULT`. -/
theorem test_setto_keeps_result :
    regsOf (exec (.setto 50) { at_ .idle with result := .timeout }) = some (.idle, .timeout, 0, 50) := by decide
/-- The end of S1. -/
theorem test_rdres_after_ok :
    outOf (exec .rdres { at_ .idle with result := .ok, rspLen := 1, rspData := [(0, 0x01)] }) =
      some [.results 0x01 1000 1 [0x01]] := by decide
/-- VH5. -/
theorem test_rdres_in_flight : outOf (exec .rdres (at_ .rspWait)) = some [.results 0x80 1000 0 []] := by decide
/-- VH9: in flight, no `Done`. -/
theorem test_reset_in_flight :
    (nextOf (exec .reset { at_ .rspWait with cfg := { defaultConfig with timeoutDefault := 7 } })).map
      (fun s => (s.phase, s.result, s.timeout, s.emitted)) = some (.idle, .none, 7, []) := by decide
/-- VE11 and VE13. -/
theorem test_encode_corners :
    outOf (exec (.encode 0x00 (List.replicate 254 0)) (at_ .idle)) = some [.encoded none] ∧
    outOf (exec (.encode 0xD7 []) { at_ .idle with cfg := { defaultConfig with postamble := [] } }) =
      some [.encoded (some [0x00, 0x00, 0xFF, 0x02, 0xFE, 0xD6, 0xD7, 0x53])] := by decide +kernel
/-- VD21: the second frame is never decoded. -/
theorem test_decode_two_frames :
    outOf (exec (.decode [0x00, 0x00, 0xFF, 0x00, 0xFF, 0x00, 0x00, 0x00, 0xFF, 0x03, 0xFD, 0xD7, 0xD8, 0x01, 0x50, 0x00])
      (at_ .idle)) = some [.decoded .ack] := by decide

/-! ## Received buffers and the other answers -/

/-- 42_engine_send.md R145: the second read carries the whole timeout. -/
theorem test_ack_first : outOf (exec (.ack []) (at_ .ackWait)) = some [.rxReq 255 1000] := by decide
/-- VX11. -/
theorem test_ack_second : regsOf (exec (.ack []) (at_ .rspWait)) = some (.idle, .mismatch, 0, 1000) := by decide
/-- VX15: `inc8(FF) = 00`. -/
theorem test_rsp_delivered :
    outOf (exec (.rsp [0xD7, 0x00, 0xAA] [0x00]) { at_ .rspWait with reqCode := 0xFF }) =
      some [.done .ok [0xAA]] := by decide
/-- VX13: a payload of one byte; VX9: a correlating response to the first read. -/
theorem test_rsp_failures :
    outOf (exec (.rsp [0xD7] [0x00]) { at_ .rspWait with reqCode := 0xD6 }) = some [.done .mismatch []] ∧
    outOf (exec (.rsp [0xD7, 0xD8, 0x01] [0x00]) { at_ .ackWait with reqCode := 0xD7 }) =
      some [.done .unexpectedResponse []] := by decide
/-- VX8 and VX10 on an empty buffer (VD5). -/
theorem test_malformed_by_phase :
    regsOf (exec (.malformed []) (at_ .ackWait)) = some (.idle, .badAck, 0, 1000) ∧
    regsOf (exec (.malformed []) (at_ .rspWait)) = some (.idle, .badResponse, 0, 1000) := by decide
/-- VX3 to VX7: the answers without a frame. -/
theorem test_answers :
    (onTxErr (at_ .txWait)).emitted = [.done .transportWriteError []] ∧
    (onTxOk (at_ .txWait)).emitted = [.rxReq 255 1000] ∧
    (onRxTimeout (at_ .ackWait)).emitted = [.done .timeout []] ∧
    (onRxErr (at_ .rspWait)).emitted = [.done .transportReadError []] := by decide
/-- VX25 and VX26: no transition. -/
theorem test_no_transition :
    handle (.rxData defaultAckPattern) (at_ .idle) = .next (at_ .idle) ∧
    handle .rxTimeout (at_ .txWait) = .next (at_ .txWait) := ⟨rfl, rfl⟩

/-! ## The Polling Loop -/

/-- Host parameters with the signature at offsets 0 and 1 and the identifiers from offset 2. -/
def hostParams : HostParams := ⟨[], 0, 1, 0x01, 0x12, 2, false, 3, none⟩

theorem test_loop_surfaces_an_error :
    loopAction defaultConfig hostParams false ⟨.polling, 9, 3⟩ = .surfaceError ∧
    loopAction defaultConfig hostParams false ⟨.polling, 9, 2⟩ = .submit ⟨0x01, 0x04, [], 0⟩ ∧
    loopAction defaultConfig hostParams true ⟨.polling, 9, 2⟩ = .stop := by decide

/-- 44_host_polling_loop.md R191: a loop that has made its maximum of iterations submits no further exchange. -/
theorem test_loop_stops_at_the_cap :
    loopAction defaultConfig { hostParams with maxIterations := some 9 } false ⟨.polling, 9, 0⟩ = .stop ∧
    loopAction defaultConfig { hostParams with maxIterations := some 9 } false ⟨.polling, 8, 0⟩ =
      .submit ⟨0x01, 0x04, [], 0⟩ := by decide

/-- 44_host_polling_loop.md R185: a result in `Found` leaves the loop as it is. -/
theorem test_loop_found_is_terminal :
    loopOnDone hostParams .ok [0x80, 0x00, 0x00, 0x00] ⟨.found [0xAA] [0xBB], 4, 0⟩ = ⟨.found [0xAA] [0xBB], 4, 0⟩ ∧
    loopOnDone hostParams .timeout [] ⟨.found [0xAA] [0xBB], 4, 0⟩ = ⟨.found [0xAA] [0xBB], 4, 0⟩ ∧
    loopOnDone hostParams .timeout [] ⟨.polling, 4, 0⟩ = ⟨.polling, 5, 1⟩ := by decide

/-! ## Witnesses: each statement's hypotheses, met together -/

theorem witness_DecodeOfEncode_ack :
    WellFormed cap16 (.ack (List.replicate 10 0)) = true ∧
    encode cap16 (.ack (List.replicate 10 0)) = some (.rx (defaultAckPattern ++ List.replicate 10 0)) := by decide
theorem witness_DecodeOfEncode_symbolic :
    WellFormed cap16 (.cmdSwitchRF [0x00]) = true ∧ (encode cap16 (.cmdSwitchRF [0x00])).isSome = true := by decide
theorem witness_EncodeOfDecode :
    ([0x00, 0x00, 0xFF, 0x02, 0xFE, 0xD6, 0xD7, 0x53, 0x00] : List Byte).length ≤ defaultConfig.bufCap ∧
    decodeTx defaultConfig [0x00, 0x00, 0xFF, 0x02, 0xFE, 0xD6, 0xD7, 0x53, 0x00] = .ok (.cmd 0xD7 []) := by decide
theorem witness_EncodedFrames_253 : (List.replicate 253 (0 : Byte)).length ≤ 253 := by decide +kernel
theorem witness_EncodeGives_both_sides :
    (List.replicate 253 (0 : Byte)).length ≤ 253 ∧ 253 < (List.replicate 254 (0 : Byte)).length := by decide +kernel
theorem witness_DecodeIgnores :
    decodeFrame defaultConfig [0x00, 0x00, 0xFF, 0x03, 0xFD, 0xD7, 0xD8, 0x01, 0x50] = .response [0xD7, 0xD8, 0x01] ∧
    ([0x00, 0x00, 0xFF, 0x03, 0xFD, 0xD7, 0xD8, 0x01, 0x50, 0xAA] : List Byte).take 9 =
      [0x00, 0x00, 0xFF, 0x03, 0xFD, 0xD7, 0xD8, 0x01, 0x50] ∧
    ¬ defaultConfig.ackPattern <+: [0x00, 0x00, 0xFF, 0x03, 0xFD, 0xD7, 0xD8, 0x01, 0x50, 0xAA] := by decide
theorem witness_FramesRoundTrip :
    encodeFrame defaultConfig 0xD7 [] = some [0x00, 0x00, 0xFF, 0x02, 0xFE, 0xD6, 0xD7, 0x53, 0x00] ∧
    ¬ defaultConfig.ackPattern <+: [0x00, 0x00, 0xFF, 0x02, 0xFE, 0xD6, 0xD7, 0x53, 0x00] ∧
    ¬ defaultConfig.ackPattern <+: normalFrame [0xD7, inc8 0xD7] [0x00] := by decide
theorem witness_StartsAnExchange_253 :
    (at_ .idle).phase = .idle ∧ (List.replicate 253 (0 : Byte)).length ≤ 253 := by decide +kernel
theorem witness_OverlongSend_254 :
    (at_ .idle).phase = .idle ∧ 253 < (List.replicate 254 (0 : Byte)).length := by decide +kernel
theorem witness_CommandRows_254 :
    Instr.cmdInCommRF (List.replicate 254 0) ∈ [Instr.cmd 0 (List.replicate 254 0), .cmdInCommRF (List.replicate 254 0)] ∧
    (at_ .ackWait).phase ≠ .idle ∧ (at_ .idle).phase = .idle ∧ 253 < (List.replicate 254 (0 : Byte)).length := by
  decide +kernel
theorem witness_BusyPort : (at_ .txWait).phase ≠ .idle ∧ (at_ .rspWait).phase ≠ .idle := by decide
theorem witness_UnknownOpsel_0_and_5 :
    { at_ .idle with inbox := [.host ⟨0x05, 0, [], 0⟩] }.inbox = .host ⟨0x05, 0, [], 0⟩ :: [] ∧
    ¬ (1 ≤ (0x00 : Byte).toNat ∧ (0x00 : Byte).toNat ≤ 4) ∧ ¬ (1 ≤ (0x05 : Byte).toNat ∧ (0x05 : Byte).toNat ≤ 4) := by
  decide
theorem witness_Setto :
    (at_ .idle).phase = .idle ∧ (at_ .txWait).timeout = 1000 ∧ (at_ .txWait).phase = .txWait ∧
    { at_ .txWait with inbox := [.txOk] }.inbox = .txOk :: [] := by decide

/-- A state after an `OK` of one byte. -/
def afterOk : State := { at_ .idle with result := .ok, rspLen := 1, rspData := [(0, 0x01)] }

theorem witness_Rdres_after_ok : afterOk.Inv := by constructor <;> decide
/-- The last clause of `RdresReturnsTheResult`: a step in flight that completes nothing, and one in `IDLE`. -/
theorem witness_Rdres_same_answer :
    { at_ .txWait with inbox := [.txOk] }.Inv ∧ { afterOk with inbox := [.rxErr] }.Inv ∧
    step { at_ .txWait with inbox := [.txOk] } = .next (requestRead .ackWait (at_ .txWait)) ∧
    (requestRead .ackWait (at_ .txWait)).phase ≠ .idle ∧
    step { afterOk with inbox := [.rxErr] } = .next afterOk ∧ afterOk.phase = .idle :=
  ⟨by constructor <;> decide, by constructor <;> decide, rfl, by decide, rfl, rfl⟩
theorem witness_Rdres_in_flight : (at_ .ackWait).Inv ∧ (at_ .ackWait).phase ≠ .idle :=
  ⟨by constructor <;> decide, by decide⟩
theorem witness_WriteAnswers :
    { at_ .txWait with inbox := [.txOk] }.phase = .txWait ∧
    { at_ .txWait with inbox := [.txOk] }.inbox = .txOk :: [] ∧
    { at_ .txWait with inbox := [.txErr] }.inbox = .txErr :: [] := by decide
theorem witness_FailedReads :
    (at_ .ackWait).phase = .ackWait ∧ (at_ .rspWait).phase = .rspWait ∧
    { at_ .ackWait with inbox := [.rxTimeout] }.inbox = .rxTimeout :: [] ∧
    { at_ .rspWait with inbox := [.rxErr] }.inbox = .rxErr :: [] := by decide
theorem witness_Ack_at_capacity :
    (at_ .ackWait).phase = .ackWait ∧ (at_ .rspWait).phase = .rspWait ∧
    (at_ .ackWait).cfg.ackPattern.length + (List.replicate 249 (0 : Byte)).length = (at_ .ackWait).cfg.bufCap := by decide +kernel
theorem witness_Unexpected_at_capacity :
    (at_ .ackWait).phase = .ackWait ∧
    6 + (List.replicate 249 (0 : Byte)).length + ([] : List Byte).length = (at_ .ackWait).cfg.bufCap := by decide +kernel
theorem witness_Delivered_at_capacity :
    (at_ .rspWait).phase = .rspWait ∧ (List.replicate 247 (0 : Byte)).length ≤ 253 ∧
    8 + (List.replicate 247 (0 : Byte)).length + ([] : List Byte).length = (at_ .rspWait).cfg.bufCap := by decide +kernel
/-- The three ways of not correlating, with `REQ_CODE` 0. -/
theorem witness_Uncorrelated :
    (at_ .rspWait).phase = .rspWait ∧ 6 + ([0xD7] : List Byte).length + 0 ≤ (at_ .rspWait).cfg.bufCap ∧
    ([0xD7] : List Byte).length < 2 ∧ byteAt [0xD6, 0x01] 0 ≠ 0xD7 ∧
    byteAt [0xD7, 0x02] 1 ≠ (at_ .rspWait).reqCode + 1 := by decide
theorem witness_Malformed_at_capacity :
    (at_ .ackWait).phase = .ackWait ∧ (at_ .rspWait).phase = .rspWait ∧
    (List.replicate 255 (0 : Byte)).length = (at_ .ackWait).cfg.bufCap := by decide +kernel
theorem witness_Unanswered :
    { at_ .idle with inbox := [.rxErr] }.inbox = .rxErr :: [] ∧ fromTransport .rxErr = true ∧
    answersRequest .idle .rxErr = false ∧ answersRequest .txWait (.rxData []) = false ∧
    answersRequest .rspWait .txOk = false := by decide
theorem witness_TransportOpenAndClose :
    { at_ .idle with inbox := [.transportClose, .transportOpen] }.inbox = .transportClose :: [.transportOpen] ∧
    step { at_ .rspWait with inbox := [.transportOpen] } = .next (at_ .rspWait) := ⟨rfl, rfl⟩
theorem witness_StepRuns :
    { at_ .idle with inbox := [.host ⟨0x03, 0, [], 0⟩] }.inbox = .host ⟨0x03, 0, [], 0⟩ :: [] ∧
    inputWord (.host ⟨0x03, 0, [], 0⟩) = some (.host ⟨0x03, 0, [], 0⟩) ∧
    decode (at_ .idle).cfg (.host ⟨0x03, 0, [], 0⟩) = .ok .rdres := by decide
theorem witness_StepKeeps_and_NeverStop :
    { at_ .ackWait with inbox := [.rxTimeout] }.Inv ∧ Input.Fits (at_ .ackWait).cfg .rxTimeout ∧
    Input.Fits (at_ .ackWait).cfg (.rxData (List.replicate 255 0)) ∧
    step { at_ .ackWait with inbox := [.rxTimeout] } = .next (raise .timeout (at_ .ackWait)) :=
  ⟨by constructor <;> decide, trivial, by decide +kernel, rfl⟩
/-- A step that moves the phase, and one that writes the timeout. -/
theorem witness_whole_machine_steps :
    step { at_ .txWait with inbox := [.txOk] } = .next (requestRead .ackWait (at_ .txWait)) ∧
    step { at_ .idle with inbox := [.host ⟨0x02, 0, [], 5⟩] } = .next { at_ .idle with timeout := 5 } := ⟨rfl, rfl⟩
theorem witness_LatchedCommand :
    (at_ .txWait).phase ≠ .idle ∧
    step { at_ .txWait with inbox := [.host ⟨0x02, 0, [], 5⟩] } = .next (refuse (at_ .txWait)) ∧
    (0x02 : Byte) ≠ 0x04 := ⟨by decide, rfl, by decide⟩
/-- Also the clause of `SettoWritesTheTimeout` about every step that emits a read request. -/
theorem witness_RequestsFollow :
    step { at_ .txWait with inbox := [.txOk] } = .next (requestRead .ackWait (at_ .txWait)) ∧
    (requestRead .ackWait (at_ .txWait)).emitted = (at_ .txWait).emitted ++ [.rxReq 255 1000] := ⟨rfl, by decide⟩
theorem witness_Failures :
    step { at_ .txWait with inbox := [.txErr] } = .next (raise .transportWriteError (at_ .txWait)) ∧
    (raise .transportWriteError (at_ .txWait)).emitted = (at_ .txWait).emitted ++ [.done .transportWriteError []] ∧
    Result.transportWriteError ≠ .ok := ⟨rfl, rfl, by decide⟩
/-- The clause about a failure that a received buffer causes (42_engine_send.md R143 on an empty buffer). -/
theorem witness_Failures_received :
    (nextOf (step { at_ .ackWait with inbox := [.rxData []] })).map (·.emitted) =
      some ((at_ .ackWait).emitted ++ [.done .badAck []]) ∧ Result.badAck ≠ .ok := by decide
theorem witness_ExchangesComplete :
    { at_ .txWait with inbox := [.txOk, .rxData defaultAckPattern, .rxTimeout] }.Inv ∧
    answersRequest .txWait .txOk = true ∧ answersRequest .ackWait (.rxData defaultAckPattern) = true ∧
    answersRequest .rspWait .rxTimeout = true ∧ Input.Fits (at_ .txWait).cfg (.rxData defaultAckPattern) ∧
    Input.Fits (at_ .txWait).cfg .rxTimeout :=
  ⟨by constructor <;> decide, by decide, by decide, by decide, by decide, trivial⟩
theorem witness_Polling_and_Found :
    loopStart.st = .polling ∧ (⟨.found [0xAA] [0xBB], 1, 0⟩ : HostLoop).st = .found [0xAA] [0xBB] := by decide
theorem witness_TypeFCard :
    ([0x01, 0x12] : List Byte).length = hostParams.idmOff ∧ (List.replicate 8 (0xAA : Byte)).length = 8 ∧
    ¬ noCardSentinel <+: [0x01, 0x12] ++ List.replicate 8 0xAA ++ List.replicate 8 0xBB ++ [] ∧
    ([0x01, 0x12] ++ List.replicate 8 0xAA ++ List.replicate 8 0xBB ++ [])[hostParams.typeFIdx0]? =
      some hostParams.typeFSig0 ∧
    ([0x01, 0x12] ++ List.replicate 8 0xAA ++ List.replicate 8 0xBB ++ [])[hostParams.typeFIdx1]? =
      some hostParams.typeFSig1 := by decide

end Sys2Proof.Tests
end

section
/-! The step and the decoder: an event that carries a word is handled by running the decoded instruction. -/

namespace Sys2Proof.Machine

/-- Handling an event whose word decodes to an instruction is running that instruction (00_scope.md R15): a host
transaction goes through `decodeHost`, a received buffer through the total `decodeRx`, and no other event carries a
word. -/
theorem handle_of_decode (s : State) (i : Input) (w : PortWord) (op : Instr) (hw : inputWord i = some w)
    (hd : decode s.cfg w = .ok op) : handle i s = exec op s := by
  cases i with
  | host x =>
    obtain rfl : PortWord.host x = w := Option.some.inj hw
    have hx : decodeHost x = .ok op := hd
    simp only [handle, hx]
  | rxData b =>
    obtain rfl : PortWord.rx b = w := Option.some.inj hw
    have hb : decodeRx s.cfg b = op := Except.ok.inj hd
    simp only [handle, hb]
  | txOk | txErr | rxTimeout | rxErr | transportOpen | transportClose => cases hw

/-- Settles O30: the step takes the next event off the list and handles it, and handling it runs the decoded
instruction. -/
theorem stepRunsTheDecodedInstruction : Obligations.StepRunsTheDecodedInstruction := by
  intro s i later w op hinbox hw hd
  calc step s = handle i { s with inbox := later } := step_of_event s i later hinbox
    _ = exec op { s with inbox := later } := handle_of_decode { s with inbox := later } i w op hw hd

end Sys2Proof.Machine
end

section
/-! Facts the statements about the state share: what a filled space holds, and handling an event forward, so that
`Transition` lists exactly what the block does (`Transition.handle_eq` is the converse of `handle_transition`). -/

namespace Sys2Proof.Machine

variable {s t : State} {i : Input}

/-- A space filled from offset 0 lists exactly the bytes written. -/
theorem Memory.fill_bytes (v : List Byte) : (Memory.writeBytes [] 0 v).map Prod.snd = v := by
  have hfill : Memory.readBytes (Memory.writeBytes [] 0 v) 0 v.length = some v := Memory.readBytes_writeBytes [] 0 v
  rw [Memory.readBytes_of_dense _ _ (Memory.fill_dense v)] at hfill
  exact Option.some.inj hfill

/-- The length of a run of fewer than 256 bytes survives in an 8-bit length register. -/
theorem toNat_ofNat_length (v : List Byte) (h : v.length < 256) : (BitVec.ofNat 8 v.length).toNat = v.length := by
  rw [BitVec.toNat_ofNat]
  exact Nat.mod_eq_of_lt h

/-! ## Handling an event, forward -/

/-- 42_engine_send.md R152: an answer that no request is outstanding for. -/
theorem handle_dropped (ht : fromTransport i = true) (ha : answersRequest s.phase i = false) :
    handle i s = .next s := by
  cases i with
  | host | transportOpen | transportClose => cases ht
  | rxData b =>
    cases hp : s.phase with
    | idle => exact handle_rxData_dropped s b (.inl hp)
    | txWait => exact handle_rxData_dropped s b (.inr hp)
    | ackWait | rspWait => rw [hp] at ha; cases ha
  | txOk | txErr =>
    cases hp : s.phase with
    | txWait => rw [hp] at ha; cases ha
    | idle | ackWait | rspWait => simp only [handle, onTxOk, onTxErr, hp]
  | rxTimeout | rxErr =>
    cases hp : s.phase with
    | ackWait | rspWait => rw [hp] at ha; cases ha
    | idle | txWait => simp only [handle, onRxTimeout, onRxErr, readFails, hp]

theorem handle_send (x : HostTxn) (h : x.opsel = 0x01) :
    handle (.host x) s = startExchange x.code x.data s := by
  simp [handle, decodeHost, h, exec, execSend]

theorem handle_setto (x : HostTxn) (h : x.opsel = 0x02) : handle (.host x) s = execSetto x.t s := by
  simp [handle, decodeHost, h, exec]

theorem handle_rdres (x : HostTxn) (h : x.opsel = 0x03) : handle (.host x) s = execRdres s := by
  simp [handle, decodeHost, h, exec]

theorem handle_reset (x : HostTxn) (h : x.opsel = 0x04) : handle (.host x) s = execReset s := by
  simp [handle, decodeHost, h, exec]

/-- The converse of `handle_transition`: the block takes every transition listed. -/
theorem Transition.handle_eq (h : Transition s i t) : handle i s = .next t := by
  cases h with
  | unknownOpsel x h =>
    obtain ⟨h1, h2, h3, h4⟩ := h
    simp only [handle, decodeHost, if_neg h1, if_neg h2, if_neg h3, if_neg h4]
  | refusedBusy x h hb =>
    rcases h with h | h
    · rw [handle_send x h, startExchange_busy _ _ _ hb]
    · rw [handle_setto x h, execSetto, if_pos ((busy_iff s).2 hb)]
  | accepted x h hp hn => rw [handle_send x h, startExchange_accepted _ _ _ hp hn]
  | badCommand x h hp hn => rw [handle_send x h, startExchange_overlong _ _ _ hp hn]
  | setto x h hp => rw [handle_setto x h, execSetto, if_neg fun hb => (busy_iff s).1 hb hp]
  | rdres x h data hd => rw [handle_rdres x h, execRdres, hd, withValue_ok]
  | reset x h _ ht => rw [handle_reset x h, ht]
  | dropped _ ht ha => exact handle_dropped ht ha
  | transportOpen | transportClose => rfl
  | txOk hp => simp only [handle, onTxOk, hp]
  | txErr hp => simp only [handle, onTxErr, hp]
  | rxTimeout hp => rcases hp with hp | hp <;> simp only [handle, onRxTimeout, readFails, hp]
  | rxErr hp => rcases hp with hp | hp <;> simp only [handle, onRxErr, readFails, hp]
  | ackFirst b hp hf hd | unexpected b _ hp hf hd | badAck b hp hf hd => rw [handle_rxData_ackWait s b hp hf, hd]
  | ackSecond b hp hf hd | badResponse b hp hf hd => rw [handle_rxData_rspWait s b hp hf, hd]
  | mismatch b p hp hf hd hc => simp [handle_rxData_rspWait s b hp hf, hd, hc]
  | delivered b d hp hf hd =>
    have hc : correlates (dirRx :: inc8 s.reqCode :: d) s.reqCode = true := (correlates_iff _ _).2 ⟨d, rfl⟩
    simp [handle_rxData_rspWait s b hp hf, hd, hc]

/-- 70_reset_and_hazards.md R248. -/
theorem step_waits (s : State) (h : s.inbox = []) : step s = .next s := by
  simp [step, nextEvent, h]

end Sys2Proof.Machine
end

section
/-! The invariant: one lemma per state operation of a step, then one case per transition. -/

namespace Sys2Proof.Machine

variable {s t : State}

theorem emit_inv (o : Output) (hs : s.Inv) : (emit o s).Inv := { hs with }

theorem clearResponse_inv (hs : s.Inv) : (clearResponse s).Inv :=
  { hs with
    rspDense := rfl
    rspFits := Nat.zero_le _
    okHasData := fun _ => rfl }

/-- A failure leaves no response and nothing in flight, whatever the receive buffer holds. -/
theorem raise_inv (x : Result) (hs : s.Inv) : (raise x s).Inv :=
  { clearResponse_inv hs with
    okHasData := fun _ => rfl
    flightResult := fun h => absurd rfl h
    flightRequest := fun h => absurd rfl h
    flightTransfer := nofun }

/-- A read is requested only in flight; the phase that waits for the second one finds the first transfer in `RXBUF`. -/
theorem requestRead_inv (p : Phase) (hs : s.Inv) (hp : s.phase ≠ .idle)
    (hr : p = .rspWait → s.rxN = s.rxBuf.length) : (requestRead p s).Inv :=
  { hs with
    flightResult := fun _ => hs.flightResult hp
    flightRequest := fun _ => hs.flightRequest hp
    flightTransfer := hr }

theorem holding_inv (b : List Byte) (hs : s.Inv) (hf : b.length ≤ s.cfg.bufCap) : (holding b s).Inv :=
  { hs with
    rxDense := by rw [Memory.fill_length]; exact Memory.fill_dense b
    rxFits := by rw [Memory.fill_length]; exact hf
    flightTransfer := fun _ => (Memory.fill_length b).symm }

theorem accepted_inv (code : Byte) (data : List Byte) (hs : s.Inv) (hn : data.length ≤ maxData) :
    (accepted code data s).Inv :=
  { clearResponse_inv hs with
    reqDense := by rw [Memory.fill_length]; exact Memory.fill_dense data
    reqFits := by rw [Memory.fill_length]; exact hn
    okHasData := fun _ => rfl
    flightResult := fun _ => rfl
    flightRequest := fun _ => by
      rw [Memory.fill_length]
      exact toNat_ofNat_length data (Nat.lt_of_le_of_lt hn (by decide))
    flightTransfer := nofun }

theorem delivered_inv (d : List Byte) (hs : s.Inv) (hd : d.length < 256) (hn : d.length ≤ s.cfg.bufCap - 8) :
    (delivered d s).Inv :=
  { hs with
    rspDense := by rw [toNat_ofNat_length d hd]; exact Memory.fill_dense d
    rspFits := by rw [toNat_ofNat_length d hd]; exact hn
    okHasData := fun h => absurd rfl h
    flightResult := fun h => absurd rfl h
    flightRequest := fun h => absurd rfl h
    flightTransfer := nofun }

theorem execReset_inv (hs : s.Inv) (h : execReset s = .next t) : t.Inv := by
  cases h
  exact
    { clearResponse_inv hs with
      reqDense := rfl
      reqFits := Nat.zero_le _
      rxDense := rfl
      rxFits := Nat.zero_le _
      okHasData := fun _ => rfl
      flightResult := fun h => absurd rfl h
      flightRequest := fun h => absurd rfl h
      flightTransfer := nofun }

/-- Handling an event keeps the invariant. The case that needs the codec is the delivery: the data of a decoded payload
is shorter than 256 bytes, so `RSP_LEN` can hold its length. -/
theorem Transition.inv {i : Input} (h : Transition s i t) (hs : s.Inv) : t.Inv := by
  cases h with
  | unknownOpsel | refusedBusy | rdres => exact emit_inv _ hs
  | dropped | transportOpen | transportClose => exact hs
  | setto => exact { hs with }
  | accepted x _ _ hn => exact accepted_inv x.code x.data hs hn
  | reset _ _ _ ht => exact execReset_inv hs ht
  | badCommand | txErr | rxTimeout | rxErr => exact raise_inv _ hs
  | txOk hp => exact requestRead_inv _ hs (by rw [hp]; nofun) nofun
  | ackFirst b hp hf =>
    exact requestRead_inv _ (holding_inv b hs hf) (by rw [hp]; nofun) fun _ => (Memory.fill_length b).symm
  | ackSecond b _ hf | unexpected b _ _ hf | mismatch b _ _ hf | badAck b _ hf | badResponse b _ hf =>
    exact raise_inv _ (holding_inv b hs hf)
  | delivered b d _ hf hd hn =>
    obtain ⟨hp, -⟩ := decodeFrame_response _ _ _ hd
    simp only [List.length_cons] at hp
    exact delivered_inv d (holding_inv b hs hf) (by omega) hn

/-- Settles O32: taking an event off the list keeps the invariant, and so does every transition. -/
theorem stepKeepsTheInvariant : Obligations.StepKeepsTheInvariant := by
  intro s t hs h
  rcases step_cases s t h with ⟨-, rfl⟩ | ⟨i, later, -, htr⟩
  · exact hs
  · exact htr.inv { hs with }

end Sys2Proof.Machine
end

section
/-! What a step can do to `PHASE`, to `TIMEOUT` and to the result registers, one case per transition. -/

namespace Sys2Proof.Machine

variable {s t : State} {i : Input}

/-! ## `PHASE` -/

/-- 10_state.md R23. -/
theorem Transition.phase_next (h : Transition s i t) :
    t.phase = s.phase ∨ t.phase = .idle ∨ (s.phase = .idle ∧ t.phase = .txWait) ∨
      (s.phase = .txWait ∧ t.phase = .ackWait) ∨ (s.phase = .ackWait ∧ t.phase = .rspWait) := by
  cases h with
  | unknownOpsel | refusedBusy | setto | rdres | dropped | transportOpen | transportClose => exact .inl rfl
  | badCommand | txErr | rxTimeout | rxErr | ackSecond | unexpected | mismatch | delivered | badAck | badResponse =>
    exact .inr (.inl rfl)
  | reset _ _ _ ht => cases ht; exact .inr (.inl rfl)
  | accepted _ _ hp => exact .inr (.inr (.inl ⟨hp, rfl⟩))
  | txOk hp => exact .inr (.inr (.inr (.inl ⟨hp, rfl⟩)))
  | ackFirst _ hp => exact .inr (.inr (.inr (.inr ⟨hp, rfl⟩)))

/-- 70_reset_and_hazards.md R248. -/
theorem Transition.answers_of_phase_ne (h : Transition s i t) (hs : s.phase ≠ .idle) (hne : t.phase ≠ s.phase) :
    answersRequest s.phase i = true ∨ ∃ x, i = .host x ∧ x.opsel = 0x04 := by
  cases h with
  | unknownOpsel | refusedBusy | setto | rdres | dropped | transportOpen | transportClose => exact absurd rfl hne
  | accepted _ _ hp | badCommand _ _ hp => exact absurd hp hs
  | reset x h4 => exact .inr ⟨x, rfl, h4⟩
  | txOk hp | txErr hp | ackFirst _ hp | ackSecond _ hp | unexpected _ _ hp | mismatch _ _ hp | delivered _ _ hp
  | badAck _ hp | badResponse _ hp => rw [hp]; exact .inl rfl
  | rxTimeout hp | rxErr hp => rcases hp with hp | hp <;> rw [hp] <;> exact .inl rfl

/-- Settles O34: both halves hold of every transition, and a step with no event to come changes nothing. -/
theorem phaseFollowsTheExchange : Obligations.PhaseFollowsTheExchange := by
  intro s t h
  rcases step_cases s t h with ⟨-, rfl⟩ | ⟨i, later, hin, htr⟩
  · exact ⟨.inl rfl, fun _ hne => absurd rfl hne⟩
  · exact ⟨htr.phase_next, fun hs hne => ⟨i, later, hin, htr.answers_of_phase_ne hs hne⟩⟩

/-! ## The parameters and `TIMEOUT` -/

theorem Transition.cfg_eq (h : Transition s i t) : t.cfg = s.cfg := by
  cases h with
  | reset _ _ _ ht => cases ht; rfl
  | _ => rfl

/-- 10_state.md R27. -/
theorem Transition.timeout_eq_or (h : Transition s i t) :
    t.timeout = s.timeout ∨ ∃ x, i = .host x ∧
      ((x.opsel = 0x02 ∧ s.phase = .idle ∧ t.timeout = x.t) ∨
        (x.opsel = 0x04 ∧ t.timeout = s.cfg.timeoutDefault)) := by
  cases h with
  | setto x h2 hp => exact .inr ⟨x, rfl, .inl ⟨h2, hp, rfl⟩⟩
  | reset x h4 _ ht => cases ht; exact .inr ⟨x, rfl, .inr ⟨h4, rfl⟩⟩
  | _ => exact .inl rfl

/-- Settles O35: the only transitions that write `TIMEOUT` are `SETTO` in `IDLE` and `RESET`, and none writes a
parameter. -/
theorem onlySettoAndResetWriteTheTimeout : Obligations.OnlySettoAndResetWriteTheTimeout := by
  intro s t h
  rcases step_cases s t h with ⟨-, rfl⟩ | ⟨i, later, hin, htr⟩
  · exact ⟨rfl, fun hne => absurd rfl hne⟩
  · refine ⟨htr.cfg_eq, fun hne => ?_⟩
    obtain ⟨x, rfl, hx⟩ := htr.timeout_eq_or.resolve_left hne
    exact ⟨x, later, hin, hx⟩

/-! ## `RESULT`, `RSP_LEN` and `RSP_DATA` -/

/-- 10_state.md R40, R25, R33. -/
theorem Transition.result_eq_or (h : Transition s i t) :
    (t.result = s.result ∧ t.rspLen = s.rspLen ∧ t.rspData = s.rspData) ∨
    (∃ x, i = .host x ∧ x.opsel = 0x01 ∧ s.phase = .idle ∧ t.phase = .txWait ∧
      t.result = .none ∧ t.rspLen = 0 ∧ t.rspData = []) ∨
    (∃ r d, t.emitted = s.emitted ++ [.done r d] ∧ t.result = r ∧ (r ≠ .ok → t.rspLen = 0 ∧ t.rspData = []) ∧
      (r = .ok → t.rspData.map Prod.snd = d)) ∨
    (∃ x, i = .host x ∧ x.opsel = 0x04 ∧ t.result = .none ∧ t.rspLen = 0 ∧ t.rspData = []) := by
  cases h with
  | unknownOpsel | refusedBusy | setto | rdres | dropped | transportOpen | transportClose | txOk | ackFirst =>
    exact .inl ⟨rfl, rfl, rfl⟩
  | accepted x h1 hp => exact .inr (.inl ⟨x, rfl, h1, hp, rfl, rfl, rfl, rfl⟩)
  | badCommand | txErr | rxTimeout | rxErr | ackSecond | unexpected | mismatch | badAck | badResponse =>
    exact .inr (.inr (.inl ⟨_, [], rfl, rfl, fun _ => ⟨rfl, rfl⟩, nofun⟩))
  | delivered _ d =>
    exact .inr (.inr (.inl ⟨.ok, d, rfl, rfl, fun hne => absurd rfl hne, fun _ => Memory.fill_bytes d⟩))
  | reset x h4 _ ht => cases ht; exact .inr (.inr (.inr ⟨x, rfl, h4, rfl, rfl, rfl⟩))

/-- Settles O36: the four ways are those of a transition, whose event is the next one to come. -/
theorem onlySendDoneAndResetWriteTheResult : Obligations.OnlySendDoneAndResetWriteTheResult := by
  intro s t h
  rcases step_cases s t h with ⟨-, rfl⟩ | ⟨i, later, hin, htr⟩
  · exact .inl ⟨rfl, rfl, rfl⟩
  · rcases htr.result_eq_or with hkept | ⟨x, rfl, hsend⟩ | hdone | ⟨x, rfl, hreset⟩
    · exact .inl hkept
    · exact .inr (.inl ⟨x, later, hin, hsend⟩)
    · exact .inr (.inr (.inl hdone))
    · exact .inr (.inr (.inr ⟨x, later, hin, hreset⟩))

end Sys2Proof.Machine
end

section
/-! Noninterference of the receive buffer: each transition is still there when the receive buffer held something else
before. -/

namespace Sys2Proof.Machine

variable {s t : State} {i : Input}

/-- The state with other contents of the receive buffer. -/
abbrev withTransfer (m : Memory) (n : Nat) (s : State) : State := { s with rxBuf := m, rxN := n }

/-- Whatever the receive buffer held before, the same transition is taken, and only what the buffer holds after it can
differ: kept where no transfer is stored, and otherwise the new transfer or no value at all. -/
theorem Transition.withTransfer (m : Memory) (n : Nat) (h : Transition s i t) :
    ∃ m' n', Transition (withTransfer m n s) i (withTransfer m' n' t) := by
  cases h with
  | unknownOpsel x h => exact ⟨m, n, .unknownOpsel x h⟩
  | refusedBusy x h hb => exact ⟨m, n, .refusedBusy x h hb⟩
  | accepted x h hp hn => exact ⟨m, n, .accepted x h hp hn⟩
  | badCommand x h hp hn => exact ⟨m, n, .badCommand x h hp hn⟩
  | setto x h hp => exact ⟨m, n, .setto x h hp⟩
  | rdres x h data hd => exact ⟨m, n, .rdres x h data hd⟩
  | reset x h _ ht => exact ⟨_, _, .reset x h t ht⟩
  | dropped _ ht ha => exact ⟨m, n, .dropped i ht ha⟩
  | transportOpen => exact ⟨m, n, .transportOpen⟩
  | transportClose => exact ⟨m, n, .transportClose⟩
  | txOk hp => exact ⟨m, n, .txOk hp⟩
  | txErr hp => exact ⟨m, n, .txErr hp⟩
  | rxTimeout hp => exact ⟨m, n, .rxTimeout hp⟩
  | rxErr hp => exact ⟨m, n, .rxErr hp⟩
  | ackFirst b hp hf hd => exact ⟨_, _, .ackFirst b hp hf hd⟩
  | ackSecond b hp hf hd => exact ⟨_, _, .ackSecond b hp hf hd⟩
  | unexpected b p hp hf hd => exact ⟨_, _, .unexpected b p hp hf hd⟩
  | mismatch b p hp hf hd hc => exact ⟨_, _, .mismatch b p hp hf hd hc⟩
  | delivered b d hp hf hd hn => exact ⟨_, _, .delivered b d hp hf hd hn⟩
  | badAck b hp hf hd => exact ⟨_, _, .badAck b hp hf hd⟩
  | badResponse b hp hf hd => exact ⟨_, _, .badResponse b hp hf hd⟩

/-- Settles O41: the step from the state with another receive buffer takes the same event by the same transition. -/
theorem earlierTransfersHaveNoInfluence : Obligations.EarlierTransfersHaveNoInfluence := by
  intro s t m n h
  rcases step_cases s t h with ⟨hin, rfl⟩ | ⟨i, later, hin, htr⟩
  · exact ⟨withTransfer m n t, step_waits (withTransfer m n t) hin, rfl⟩
  · obtain ⟨m', n', htr'⟩ := htr.withTransfer m n
    exact ⟨withTransfer m' n' t, (step_of_event (withTransfer m n s) i later hin).trans htr'.handle_eq, rfl⟩

end Sys2Proof.Machine
end

section
/-! What a step leaves of the latched command, and which requests it emits, one case per transition. -/

namespace Sys2Proof.Machine

variable {s t : State} {i : Input}

/-! ## The latched command -/

/-- 20_memory.md R65: in flight `SEND` is refused, so only `RESET` is left of the two transitions that write the
latched command. -/
theorem Transition.request_eq (h : Transition s i t) (hs : s.phase ≠ .idle)
    (hr : ∀ x, i = .host x → x.opsel ≠ 0x04) :
    t.reqCode = s.reqCode ∧ t.reqLen = s.reqLen ∧ t.reqData = s.reqData := by
  cases h with
  | accepted _ _ hp => exact absurd hp hs
  | reset x h4 => exact absurd h4 (hr x rfl)
  | _ => exact ⟨rfl, rfl, rfl⟩

/-- Settles O37: a step with no event to come changes nothing, and every other step is a transition. -/
theorem latchedCommandHolds : Obligations.LatchedCommandHolds := by
  intro s t hs h hr
  rcases step_cases s t h with ⟨-, rfl⟩ | ⟨i, later, hin, htr⟩
  · exact ⟨rfl, rfl, rfl⟩
  · exact htr.request_eq hs fun x hx => hr x later (hx ▸ hin)

/-! ## Requests to the Transport -/

/-- The outputs that ask the Transport for something (20_memory.md R52, R53). -/
def Output.isRequest : Output → Bool
  | .txReq _ | .rxReq _ _ => true
  | _ => false

/-- The two moves of `PHASE` that ask for a read (42_engine_send.md R139, R145). -/
abbrev MovesToRead (s t : State) : Prop :=
  (s.phase = .txWait ∧ t.phase = .ackWait) ∨ (s.phase = .ackWait ∧ t.phase = .rspWait)

/-- 20_memory.md R62: a transition either moves `PHASE` one step along the exchange and emits the request of the phase
it enters, or emits no request and keeps `PHASE` or ends in `IDLE`. -/
theorem Transition.emitted_cases (h : Transition s i t) :
    (∃ f, t.emitted = s.emitted ++ [.txReq f] ∧ s.phase = .idle ∧ t.phase = .txWait) ∨
    (t.emitted = s.emitted ++ [.rxReq s.cfg.bufCap s.timeout] ∧ MovesToRead s t) ∨
    (∃ out, t.emitted = s.emitted ++ out ∧ out.length ≤ 1 ∧ (∀ o ∈ out, o.isRequest = false) ∧
      (t.phase = s.phase ∨ t.phase = .idle)) := by
  cases h with
  | accepted _ _ hp => exact .inl ⟨_, rfl, hp, rfl⟩
  | txOk hp => exact .inr (.inl ⟨rfl, .inl ⟨hp, rfl⟩⟩)
  | ackFirst _ hp => exact .inr (.inl ⟨rfl, .inr ⟨hp, rfl⟩⟩)
  | setto | dropped | transportOpen | transportClose =>
    exact .inr (.inr ⟨[], (List.append_nil _).symm, Nat.zero_le 1, nofun, .inl rfl⟩)
  | reset _ _ _ ht =>
    cases ht
    exact .inr (.inr ⟨[], (List.append_nil _).symm, Nat.zero_le 1, nofun, .inr rfl⟩)
  | unknownOpsel | refusedBusy | rdres =>
    exact .inr (.inr ⟨[_], rfl, Nat.le_refl 1, List.forall_mem_singleton.2 rfl, .inl rfl⟩)
  | badCommand | txErr | rxTimeout | rxErr | ackSecond | unexpected | mismatch | delivered | badAck | badResponse =>
    exact .inr (.inr ⟨[_], rfl, Nat.le_refl 1, List.forall_mem_singleton.2 rfl, .inr rfl⟩)

/-- The outputs `out` of a step from `s` to `t` hold a request exactly when the step makes the move that asks for it
(20_memory.md R62, 42_engine_send.md R154). -/
abbrev FollowsThePhase (s t : State) (out : List Output) : Prop :=
  ((∃ f, out = [.txReq f]) ↔ s.phase = .idle ∧ t.phase = .txWait) ∧
  (out = [.rxReq s.cfg.bufCap s.timeout] ↔ MovesToRead s t) ∧
  (∀ cap v, .rxReq cap v ∈ out → cap = s.cfg.bufCap ∧ v = s.timeout)

theorem followsThePhase_txReq (f : List Byte) (hs : s.phase = .idle) (ht : t.phase = .txWait) :
    FollowsThePhase s t [.txReq f] := by
  simp [FollowsThePhase, MovesToRead, hs, ht]

theorem followsThePhase_rxReq (h : MovesToRead s t) :
    FollowsThePhase s t [.rxReq s.cfg.bufCap s.timeout] := by
  rcases h with ⟨hs, ht⟩ | ⟨hs, ht⟩ <;> simp [FollowsThePhase, MovesToRead, hs, ht]

/-- A step that keeps `PHASE` or ends in `IDLE` makes none of the moves that ask the Transport for something. -/
theorem followsThePhase_of_no_request {out : List Output} (ho : ∀ o ∈ out, o.isRequest = false)
    (hp : t.phase = s.phase ∨ t.phase = .idle) : FollowsThePhase s t out := by
  have htx : ∀ f, .txReq f ∉ out := fun f hf => nomatch ho _ hf
  have hrx : ∀ cap v, .rxReq cap v ∉ out := fun cap v hv => nomatch ho _ hv
  refine ⟨⟨?_, ?_⟩, ⟨?_, ?_⟩, fun cap v hv => absurd hv (hrx cap v)⟩
  · rintro ⟨f, rfl⟩
    exact absurd List.mem_cons_self (htx f)
  · rintro ⟨hs, ht⟩
    simp [hs, ht] at hp
  · rintro rfl
    exact absurd List.mem_cons_self (hrx _ _)
  · rintro (⟨hs, ht⟩ | ⟨hs, ht⟩) <;> simp [hs, ht] at hp

/-- Settles O39: each way a transition can emit follows the phase, and a step with no event to come emits nothing. -/
theorem requestsFollowThePhase : Obligations.RequestsFollowThePhase := by
  intro s t h
  rcases step_cases s t h with ⟨-, rfl⟩ | ⟨i, later, -, htr⟩
  · exact ⟨[], (List.append_nil _).symm, Nat.zero_le 1, followsThePhase_of_no_request nofun (.inl rfl)⟩
  · rcases htr.emitted_cases with ⟨f, he, hs, ht⟩ | ⟨he, hm⟩ | ⟨out, he, hl, ho, hp⟩
    · exact ⟨_, he, Nat.le_refl 1, followsThePhase_txReq f hs ht⟩
    · exact ⟨_, he, Nat.le_refl 1, followsThePhase_rxReq hm⟩
    · exact ⟨out, he, hl, followsThePhase_of_no_request ho hp⟩

end Sys2Proof.Machine
end

section
/-! The encodings: decoding after encoding and encoding after decoding, one lemma per form of a
word. -/

namespace Sys2Proof.Machine

variable (c : Config) (code : Byte) (data p rest b f : List Byte)

/-! ## Received buffers -/

theorem decodeRx_ack : decodeRx c (c.ackPattern ++ rest) = .ack rest := by
  simp [decodeRx, decodeFrame_of_prefix c _ (List.prefix_append _ _)]

theorem decodeRx_normalFrame (hp : p.length ≤ 255) (ha : ¬ c.ackPattern <+: normalFrame p rest) :
    decodeRx c (normalFrame p rest) = .rsp p rest := by
  have hd : (normalFrame p rest).drop (6 + p.length) = rest := by
    rw [normalFrame_eq, show 6 + p.length = p.length + 1 + 5 by omega]
    simp
  simp [decodeRx, decodeFrame_normalFrame c p rest hp ha, hd]

theorem decodeRx_malformed (h : decodeFrame c b = .malformed) : decodeRx c b = .malformed b := by
  simp [decodeRx, h]

/-- The conditions on a received frame, as facts about its operands (20_memory.md R53, 30_encoding.md R84). -/
theorem wellFormed_rsp_iff :
    WellFormed c (.rsp p rest) = true ↔
      p.length ≤ 255 ∧ 6 + p.length + rest.length ≤ c.bufCap ∧ ¬ c.ackPattern <+: normalFrame p rest := by
  simp [WellFormed, and_assoc, ← List.isPrefixOf_iff_prefix]

theorem wellFormed_malformed_iff :
    WellFormed c (.malformed b) = true ↔ b.length ≤ c.bufCap ∧ decodeFrame c b = .malformed := by
  simp [WellFormed]

theorem encode_decodeRx : encode c (decodeRx c b) = some (.rx b) := by
  rcases decodeRx_bytes c b with ⟨rest, -, he, rfl⟩ | ⟨p, rest, -, he, rfl⟩ | ⟨-, he⟩ <;>
    exact congrArg (encode c) he

theorem wellFormed_decodeRx (hf : b.length ≤ c.bufCap) : WellFormed c (decodeRx c b) = true := by
  rcases decodeRx_bytes c b with ⟨rest, -, he, rfl⟩ | ⟨p, rest, hd, he, rfl⟩ | ⟨hd, he⟩ <;> rw [he]
  · simpa [WellFormed] using hf
  · obtain ⟨hp, -, -, ha⟩ := decodeFrame_response c _ p hd
    exact (wellFormed_rsp_iff c p rest).2 ⟨hp, by simpa using hf, ha⟩
  · exact (wellFormed_malformed_iff c b).2 ⟨hf, hd⟩

/-! ## Command frames -/

theorem encodeFrame_eq_some_iff :
    encodeFrame c code data = some f ↔ data.length ≤ maxData ∧ commandFrame c code data = f := by
  simp [encodeFrame]

/-- The operands of a command frame stand at the offsets of 40_codec_encode.md R100. -/
theorem decodeTx_commandFrame (h : data.length ≤ maxData) :
    decodeTx c (commandFrame c code data) = .ok (.cmd code data) := by
  have hf := normalFrame_eq (dirTx :: code :: data) c.postamble
  rw [← commandFrame_eq] at hf
  have hcode : byteAt (commandFrame c code data) 6 = code := by rw [hf]; rfl
  have hlen : (byteAt (commandFrame c code data) 3).toNat = data.length + 2 := by
    rw [hf]
    exact toNat_ofNat_length (dirTx :: code :: data) (by simp only [maxData] at h; simp; omega)
  have hdata : slice (commandFrame c code data) 7 data.length = data := by rw [hf]; simp [slice]
  simp [decodeTx, hcode, hlen, hdata, (encodeFrame_eq_some_iff ..).2 ⟨h, rfl⟩]

theorem decodeTx_ok {i : Instr} (h : decodeTx c f = .ok i) :
    ∃ code data, i = .cmd code data ∧ data.length ≤ maxData ∧ commandFrame c code data = f := by
  simp only [decodeTx] at h
  split at h
  · cases h; exact ⟨_, _, rfl, (encodeFrame_eq_some_iff ..).1 ‹_›⟩
  · cases h

theorem decode_encode_cmd {w : PortWord} (hwf : WellFormed c (.cmd code data) = true)
    (he : encode c (.cmd code data) = some w) : decode c w = .ok (.cmd code data) := by
  cases he
  exact decodeTx_commandFrame c code data (of_decide_eq_true hwf)

/-! ## The round trips -/

/-- Settles O2, one case per row: the received classes by the verdict of `DECODE` on their bytes, the host operations
by their `OPSEL`, the commands by the layout of the frame; a symbolic row has the words of the `CMD` row with its code. -/
theorem decodeOfEncodeIsTheInstruction : Obligations.DecodeOfEncodeIsTheInstruction := by
  intro c i w hwf he
  cases i with
  | ack rest => cases he; exact congrArg Except.ok (decodeRx_ack c rest)
  | rsp p rest =>
    cases he
    obtain ⟨hp, -, ha⟩ := (wellFormed_rsp_iff c p rest).1 hwf
    exact congrArg Except.ok (decodeRx_normalFrame c p rest hp ha)
  | malformed b =>
    cases he
    exact congrArg Except.ok (decodeRx_malformed c b ((wellFormed_malformed_iff c b).1 hwf).2)
  | send | setto | rdres | reset => cases he; rfl
  | encode | decode => cases he
  | cmd _ data | cmdSetCommandType data | cmdGetFirmwareVersion data | cmdGetPDDataVersion data | cmdSwitchRF data
  | cmdInSetRF data | cmdInSetProtocol data | cmdInCommRF data => exact decode_encode_cmd c _ data hwf he

/-- Settles O3: a received buffer by its verdict, an outbound frame because it is the frame of what it decodes to. -/
theorem encodeOfDecodeIsTheBuffer : Obligations.EncodeOfDecodeIsTheBuffer := by
  intro c b
  refine ⟨encode_decodeRx c b, wellFormed_decodeRx c b, fun i hi => ?_⟩
  obtain ⟨code, data, rfl, hn, rfl⟩ := decodeTx_ok c b hi
  exact ⟨rfl, decide_eq_true hn⟩

end Sys2Proof.Machine
end

section
/-! The exchange an accepted command starts, and the symbolic commands that start one. -/

namespace Sys2Proof.Machine

variable (s : State) (code : Byte) (data : List Byte)

theorem accepted_startsExchange (hn : data.length ≤ maxData) :
    StartsExchange code data s (accepted code data s) where
  reqCode := rfl
  reqLen := toNat_ofNat_length data (Nat.lt_of_le_of_lt hn (by decide))
  reqData a h := by simp [Memory.read_fill, h]
  result := rfl
  rspLen := rfl
  emitted := by simp [commandFrame_eq, normalFrame_eq, dirTx]
  phase := rfl
  cfg := rfl
  timeout := rfl
  inbox := rfl
  freeCount := rfl
  transfer := ⟨rfl, rfl⟩

theorem startExchange_starts (h : s.phase = .idle) (hn : data.length ≤ maxData) :
    ∃ t, startExchange code data s = .next t ∧ StartsExchange code data s t :=
  ⟨_, startExchange_accepted code data s h hn, accepted_startsExchange s code data hn⟩

/-- A symbolic row runs as the `SEND` of its code (44_host_polling_loop.md R193). -/
theorem exec_of_symbolicCode {i : Instr} (h : symbolicCode s.cfg i = some (code, data)) :
    exec i s = startExchange code data s := by
  cases i with
  | cmdSetCommandType | cmdGetFirmwareVersion | cmdGetPDDataVersion | cmdSwitchRF | cmdInSetRF | cmdInSetProtocol
  | cmdInCommRF => cases h; rfl
  | ack | cmd | rsp | malformed | send | setto | rdres | reset | encode | decode => cases h

/-- Settles O11: each symbolic row runs as the `SEND` of its code, which the idle block accepts. -/
theorem symbolicCommandsStartTheirExchange : Obligations.SymbolicCommandsStartTheirExchange := by
  intro s data h hn
  have start : ∀ i code, symbolicCode s.cfg i = some (code, data) →
      ∃ t, exec i s = .next t ∧ StartsExchange code data s t := fun i code hi =>
    exec_of_symbolicCode s code data hi ▸ startExchange_starts s code data h hn
  exact ⟨start _ _ rfl, start _ _ rfl, start _ _ rfl, start _ _ rfl, start _ _ rfl, start _ _ rfl, start _ _ rfl⟩

end Sys2Proof.Machine
end

section
/-! The frames `ENCODE` gives: their bytes by offset, the two relations they meet, and what `DECODE` says of them. -/

namespace Sys2Proof.Machine

/-- Relation 2 as the sum of the payload bytes, before any reduction mod 256 (00_scope.md R18). -/
theorem relation2_iff_sum (p : List Byte) (dcs : Byte) :
    relation2 p dcs = true ↔ ((p.map BitVec.toNat).sum + dcs.toNat) % 256 = 0 := by
  simp [relation2, sum8]

section Layout

variable (p tail : List Byte)

/-! ## A normal frame by offset (30_encoding.md R71) -/

@[simp] theorem byteAt_normalFrame_len : byteAt (normalFrame p tail) 3 = BitVec.ofNat 8 p.length := by
  rw [normalFrame_eq]; rfl

@[simp] theorem byteAt_normalFrame_lcs : byteAt (normalFrame p tail) 4 = neg8 (BitVec.ofNat 8 p.length) := by
  rw [normalFrame_eq]; rfl

@[simp] theorem slice_normalFrame_payload : slice (normalFrame p tail) 5 p.length = p := by
  simp [normalFrame_eq, slice]

@[simp] theorem byteAt_normalFrame_dcs : byteAt (normalFrame p tail) (p.length + 5) = neg8 (sum8 p) := by
  simp [normalFrame_eq, byteAt]

/-- A normal frame cut after its checksum byte is the frame with nothing behind it. -/
theorem take_normalFrame : (normalFrame p tail).take (p.length + 6) = normalFrame p [] := by
  simp [normalFrame_eq, List.take_append]

/-- `DECODE` of a normal frame cut after its checksum byte: a frame that does not begin with the ACK pattern does not
when it is cut either (40_codec_encode.md R106). -/
theorem decodeFrame_take_normalFrame (c : Config) (hp : p.length ≤ 255) (ha : ¬ c.ackPattern <+: normalFrame p tail) :
    decodeFrame c ((normalFrame p tail).take (p.length + 6)) = .response p := by
  have hcut : ¬ c.ackPattern <+: (normalFrame p tail).take (p.length + 6) :=
    fun h => ha (h.trans (List.take_prefix ..))
  rw [take_normalFrame] at hcut ⊢
  exact decodeFrame_normalFrame c p [] hp hcut

end Layout

variable (c : Config) (code dir : Byte) (data : List Byte)

theorem encodeFrame_of_fits (hn : data.length ≤ maxData) : encodeFrame c code data = some (commandFrame c code data) :=
  if_pos hn

theorem encodeFrame_of_overlong (hn : maxData < data.length) : encodeFrame c code data = none :=
  if_neg (Nat.not_le.2 hn)

/-- A direction byte, a code and at most `MAX_DATA` bytes of data fit a frame (00_scope.md R11). -/
theorem payload_fits (hn : data.length ≤ maxData) : (dir :: code :: data).length ≤ 255 := by
  simp only [maxData] at hn
  simp only [List.length_cons]
  omega

/-! ## The statements -/

/-- Settles O4: the frame is the normal frame of `D6`, `code`, `data`, whose `LCS` and `DCS` are the bytes the two
relations fix. -/
theorem encodedFramesMeetBothRelations : Obligations.EncodedFramesMeetBothRelations := by
  intro c code data hn
  refine ⟨_, encodeFrame_of_fits c code data hn, ?_⟩
  rw [commandFrame_eq]
  refine ⟨?_, ?_, slice_normalFrame_payload (dirTx :: code :: data) _, ?_⟩
  · rw [byteAt_normalFrame_len]
    exact toNat_ofNat_length _ (Nat.lt_succ_of_le (payload_fits code dirTx data hn))
  · rw [byteAt_normalFrame_len, byteAt_normalFrame_lcs]
    exact beq_iff_eq.1 (relation1_neg8 _)
  · have hsum := (relation2_iff_sum (dirTx :: code :: data) _).1 (relation2_neg8 _)
    have hdcs := byteAt_normalFrame_dcs (dirTx :: code :: data) c.postamble
    rw [show 7 + data.length = (dirTx :: code :: data).length + 5 by simp; omega, hdcs]
    simpa [dirTx, ← Nat.add_assoc] using hsum

/-- Settles O5: both sides of the domain, and the frame as the layout of a normal frame. -/
theorem encodeGivesTheFrameOfItsOperands : Obligations.EncodeGivesTheFrameOfItsOperands := by
  intro s code data
  refine ⟨encodeFrame s.cfg code data, rfl, fun hn => ?_, encodeFrame_of_overlong s.cfg code data, fun g hg => ?_⟩
  · rw [encodeFrame_of_fits s.cfg code data hn]
    simp [commandFrame_eq, normalFrame_eq, dirTx]
  · obtain ⟨-, rfl⟩ := (encodeFrame_eq_some_iff ..).1 hg
    simp [commandFrame_eq]
    omega

/-- Settles O8: the command frame, the command frame without its postamble and the device frame are normal frames, so
`DECODE` gives their payload. -/
theorem framesRoundTripThroughTheCodec : Obligations.FramesRoundTripThroughTheCodec := by
  intro c code data hn
  refine ⟨fun f hf ha => ?_, fun tail => decodeFrame_normalFrame c _ tail (payload_fits _ _ data hn),
    (correlates_iff _ _).2 ⟨data, rfl⟩, slice_two _ _ data⟩
  obtain ⟨-, rfl⟩ := (encodeFrame_eq_some_iff ..).1 hf
  rw [commandFrame_eq] at ha ⊢
  have hp := payload_fits code dirTx data hn
  refine ⟨decodeFrame_normalFrame c _ _ hp ha, ?_⟩
  rw [show 8 + data.length = (dirTx :: code :: data).length + 6 by simp; omega]
  exact decodeFrame_take_normalFrame _ _ c hp ha

end Sys2Proof.Machine
end

section
/-! `DECODE` from its verdict back to the buffer: which buffers are frames, what the verdict depends on, and sample
words of every encoded family. -/

namespace Sys2Proof.Machine

variable (c : Config) (b p : List Byte)

/-! ## The verdict as a property of the buffer -/

/-- The bytes of a frame whose two relations hold are the normal frame of its payload: the relations fix `LCS` and
`DCS` (30_encoding.md R77, R78), and `LEN` is one byte. -/
theorem checkedFrame_iff_normalFrame :
    (∃ len lcs dcs tail, b = [0x00, 0x00, 0xFF, len, lcs] ++ p ++ [dcs] ++ tail ∧ p.length = len.toNat ∧
      (len.toNat + lcs.toNat) % 256 = 0 ∧ ((p.map BitVec.toNat).sum + dcs.toNat) % 256 = 0) ↔
    p.length ≤ 255 ∧ ∃ tail, b = normalFrame p tail := by
  constructor
  · rintro ⟨len, lcs, dcs, tail, rfl, hlen, h1, h2⟩
    have hlcs : lcs = neg8 len := (relation1_iff_neg8 len lcs).1 (beq_iff_eq.2 h1)
    have hdcs : dcs = neg8 (sum8 p) := (relation2_iff_neg8 p dcs).1 ((relation2_iff_sum p dcs).2 h2)
    have hbyte : BitVec.ofNat 8 p.length = len := by simp [hlen]
    refine ⟨by have := len.isLt; omega, tail, ?_⟩
    simp [normalFrame_eq, hbyte, hlcs, hdcs]
  · rintro ⟨hp, tail, rfl⟩
    exact ⟨BitVec.ofNat 8 p.length, neg8 (BitVec.ofNat 8 p.length), neg8 (sum8 p), tail, by simp [normalFrame_eq],
      (toNat_ofNat_length p (Nat.lt_succ_of_le hp)).symm, beq_iff_eq.1 (relation1_neg8 _),
      (relation2_iff_sum p _).1 (relation2_neg8 p)⟩

/-- 41_codec_decode.md R117. -/
theorem decodeFrame_eq_ack_iff : decodeFrame c b = .ack ↔ c.ackPattern <+: b :=
  ⟨prefix_of_decodeFrame_ack c b, decodeFrame_of_prefix c b⟩

/-- 41_codec_decode.md R123. -/
theorem decodeFrame_eq_response_iff :
    decodeFrame c b = .response p ↔ ¬ c.ackPattern <+: b ∧ p.length ≤ 255 ∧ ∃ tail, b = normalFrame p tail := by
  constructor
  · intro h
    obtain ⟨hp, -, hb, ha⟩ := decodeFrame_response c b p h
    exact ⟨ha, hp, _, hb⟩
  · rintro ⟨ha, hp, tail, rfl⟩
    exact decodeFrame_normalFrame c p tail hp ha

/-- 41_codec_decode.md R126: the third class is what the other two leave. -/
theorem verdict_eq_malformed_iff (v : Frame) : v = .malformed ↔ v ≠ .ack ∧ ∀ q, v ≠ .response q := by
  cases v <;> simp

/-- Settles O6: the verdict is that of `decodeFrame`, whose `Ack` and `Response` are known from the buffer. -/
theorem decodeClassifiesEveryBuffer : Obligations.DecodeClassifiesEveryBuffer := by
  intro s b
  refine ⟨decodeFrame s.cfg b, rfl, decodeFrame_eq_ack_iff s.cfg b, fun p => ?_, verdict_eq_malformed_iff _⟩
  rw [checkedFrame_iff_normalFrame, decodeFrame_eq_response_iff]

/-! ## What the verdict does not depend on -/

/-- A buffer that begins with the bytes of a frame is that frame with another tail (20_memory.md R54). -/
theorem eq_normalFrame_of_take (h : b.take (p.length + 6) = normalFrame p []) :
    b = normalFrame p (b.drop (p.length + 6)) := by
  calc b = b.take (p.length + 6) ++ b.drop (p.length + 6) := (List.take_append_drop ..).symm
    _ = normalFrame p (b.drop (p.length + 6)) := by rw [h]; simp [normalFrame_eq]

/-- Settles O7: both buffers are the normal frame of the same payload, each with a tail of its own. -/
theorem decodeIgnoresWhatFollowsTheFrame : Obligations.DecodeIgnoresWhatFollowsTheFrame := by
  intro c b b' p h htake ha
  obtain ⟨-, hp, tail, rfl⟩ := (decodeFrame_eq_response_iff c b p).1 h
  rw [Nat.add_comm, take_normalFrame] at htake
  exact (decodeFrame_eq_response_iff c b' p).2 ⟨ha, hp, _, eq_normalFrame_of_take b' p htake⟩

/-! ## Sample words -/

/-- Settles O1: the received words by the class of their bytes, the outbound word as the command frame of `D7`, the
host words by their `OPSEL`. -/
theorem sampleWordsDecodeToTheirRows : Obligations.SampleWordsDecodeToTheirRows :=
  ⟨congrArg Except.ok (decodeRx_ack defaultConfig []),
    congrArg Except.ok (decodeRx_normalFrame defaultConfig [0xD7, 0xD8, 0x01] [0x00] (by decide) (by decide)),
    congrArg Except.ok (decodeRx_normalFrame defaultConfig [0x7F] [0x00] (by decide) (by decide)),
    congrArg Except.ok (decodeRx_malformed defaultConfig _ (by decide)),
    decodeTx_commandFrame defaultConfig 0xD7 [] (by decide), rfl, rfl, rfl, rfl, rfl⟩

end Sys2Proof.Machine
end

section
/-! No step stops: under the invariant every memory access of an event that fits answers a value. -/

namespace Sys2Proof.Machine

variable {s : State} {i : Input}

theorem startExchange_answers (code : Byte) (data : List Byte) (s : State) :
    ∃ t, startExchange code data s = .next t := by
  by_cases hp : s.phase = .idle
  · rcases Nat.lt_or_ge maxData data.length with hn | hn
    · exact ⟨_, startExchange_overlong code data s hp hn⟩
    · exact ⟨_, startExchange_accepted code data s hp hn⟩
  · exact ⟨_, startExchange_busy code data s hp⟩

theorem execSetto_answers (v : Word32) (s : State) : ∃ t, execSetto v s = .next t := by
  unfold execSetto
  split <;> exact ⟨_, rfl⟩

/-- `RSP_DATA` holds exactly the `RSP_LEN` bytes that `RDRES` reads (10_state.md R33). -/
theorem execRdres_answers (hs : s.Inv) : ∃ t, execRdres s = .next t := by
  rw [execRdres, memRead_of_dense .rspData s.rspLen.toNat s hs.rspFits hs.rspDense]
  exact ⟨_, rfl⟩

/-- One operation per `OPSEL`, and any other `OPSEL` is refused (43_host_port_ops.md R170, R178). -/
theorem handle_host_answers (hs : s.Inv) (x : HostTxn) : ∃ t, handle (.host x) s = .next t := by
  by_cases h1 : x.opsel = 0x01
  · rw [handle_send x h1]; exact startExchange_answers x.code x.data s
  by_cases h2 : x.opsel = 0x02
  · rw [handle_setto x h2]; exact execSetto_answers x.t s
  by_cases h3 : x.opsel = 0x03
  · rw [handle_rdres x h3]; exact execRdres_answers hs
  by_cases h4 : x.opsel = 0x04
  · rw [handle_reset x h4]; exact ⟨_, rfl⟩
  · exact ⟨_, (Transition.unknownOpsel x ⟨h1, h2, h3, h4⟩).handle_eq⟩

/-- A transfer that fits `BUF_CAP` is stored where it is awaited and dropped elsewhere (20_memory.md R53). -/
theorem handle_rxData_answers (b : List Byte) (hf : b.length ≤ s.cfg.bufCap) :
    ∃ t, handle (.rxData b) s = .next t := by
  cases hp : s.phase with
  | idle => exact ⟨_, handle_rxData_dropped s b (.inl hp)⟩
  | txWait => exact ⟨_, handle_rxData_dropped s b (.inr hp)⟩
  | ackWait => exact ⟨_, handle_rxData_ackWait s b hp hf⟩
  | rspWait => exact ⟨_, handle_rxData_rspWait s b hp hf⟩

theorem handle_answers (hs : s.Inv) (hf : i.Fits s.cfg) : ∃ t, handle i s = .next t := by
  cases i with
  | host x => exact handle_host_answers hs x
  | rxData b => exact handle_rxData_answers b hf
  | txOk | txErr | rxTimeout | rxErr | transportOpen | transportClose => exact ⟨_, rfl⟩

/-- Settles O33: with no event to come the block waits, and every event that fits is handled. -/
theorem stepsNeverStop : Obligations.StepsNeverStop := by
  intro s hs hfits
  cases hin : s.inbox with
  | nil => exact ⟨s, step_waits s hin⟩
  | cons i later =>
    rw [step_of_event s i later hin]
    exact handle_answers { hs with } (hfits i later hin)

end Sys2Proof.Machine
end

section
/-! `SEND`, `SETTO` and the command rows: accepted in `IDLE`, rejected with `BAD_COMMAND` when overlong, refused in
flight. -/

namespace Sys2Proof.Machine

variable (s : State) (code : Byte) (data : List Byte)

/-- 42_engine_send.md R138. -/
theorem startExchange_rejects (h : s.phase = .idle) (hn : maxData < data.length) :
    ∃ t, startExchange code data s = .next t ∧ Raises .badCommand s t ∧ KeepsTransfer s t :=
  ⟨_, startExchange_overlong code data s h hn, raise_raises .badCommand s, raise_keepsTransfer .badCommand s⟩

/-- 43_host_port_ops.md R173. -/
theorem execSetto_busy (v : Word32) (h : s.phase ≠ .idle) : execSetto v s = .next (refuse s) :=
  if_pos ((busy_iff s).2 h)

/-- The row `CMD` and the seven symbolic rows run as a `SEND` of the same data (44_host_polling_loop.md R193). -/
theorem exec_commandRow {i : Instr}
    (hi : i ∈ [.cmd code data, .cmdSetCommandType data, .cmdGetFirmwareVersion data, .cmdGetPDDataVersion data,
      .cmdSwitchRF data, .cmdInSetRF data, .cmdInSetProtocol data, .cmdInCommRF data]) :
    ∃ c, exec i s = startExchange c data s := by
  rcases List.mem_cons.1 hi with rfl | hi
  · exact ⟨code, rfl⟩
  · simp only [List.mem_cons, List.not_mem_nil, or_false] at hi
    rcases hi with rfl | rfl | rfl | rfl | rfl | rfl | rfl <;> exact ⟨_, exec_of_symbolicCode s _ data rfl⟩

/-- Settles O9: `SEND` is the acceptance of its code and data. -/
theorem sendStartsAnExchange : Obligations.SendStartsAnExchange :=
  fun s code data h hn => startExchange_starts s code data h hn

/-- Settles O10: the row `CMD` is the acceptance of its code and data. -/
theorem commandFrameStartsItsExchange : Obligations.CommandFrameStartsItsExchange :=
  fun s code data h hn => startExchange_starts s code data h hn

/-- Settles O12: an overlong `SEND` is rejected before anything is latched. -/
theorem overlongSendIsBadCommand : Obligations.OverlongSendIsBadCommand :=
  fun s code data h hn => startExchange_rejects s code data h hn

/-- Settles O13: both operations end in the refusal, which only reports itself. -/
theorem busyPortRefusesSendAndSetto : Obligations.BusyPortRefusesSendAndSetto :=
  fun s h => ⟨fun code data => startExchange_busy code data s h, fun v => execSetto_busy s v h⟩

/-- Settles O14: each of the rows runs as a `SEND`, which is refused in flight and rejected when overlong. -/
theorem commandRowsAreRefusedAndRejectedAsSend : Obligations.CommandRowsAreRefusedAndRejectedAsSend := by
  intro s code data i hi
  obtain ⟨c, hc⟩ := exec_commandRow s code data hi
  rw [hc]
  exact ⟨startExchange_busy c data s, startExchange_rejects s c data⟩

end Sys2Proof.Machine
end

section
/-! The Transport's answers without a frame: each is one transition of the step, or none where it answers nothing. -/

namespace Sys2Proof.Machine

variable {s t : State} {i : Input} {later : List Input} {x : Result}

/-- The step takes the next event and then the transition the event has. -/
theorem step_of_transition (hin : s.inbox = i :: later) (h : Transition { s with inbox := later } i t) :
    step s = .next t :=
  (step_of_event s i later hin).trans h.handle_eq

/-- An event that raises `x` without a transfer ends the exchange and leaves the receive buffer. -/
theorem step_raises (hin : s.inbox = i :: later)
    (h : Transition { s with inbox := later } i (raise x { s with inbox := later })) :
    ∃ t, step s = .next t ∧ Raises x { s with inbox := later } t ∧ KeepsTransfer s t :=
  ⟨_, step_of_transition hin h, raise_raises x _, ⟨rfl, rfl⟩⟩

/-- Settles O21: `TxOk` is the transition that requests the first read, `TxErr` one that raises. -/
theorem writeAnswersAdvanceTheExchange : Obligations.WriteAnswersAdvanceTheExchange :=
  fun _ _ hp =>
    ⟨fun hin => ⟨_, step_of_transition hin (.txOk hp), requestRead_requests .ackWait _, ⟨rfl, rfl⟩⟩,
      fun hin => step_raises hin (.txErr hp)⟩

/-- Settles O22: both answers raise in either reading phase. -/
theorem failedReadsEndTheExchange : Obligations.FailedReadsEndTheExchange :=
  fun _ _ hp => ⟨fun hin => step_raises hin (.rxTimeout hp), fun hin => step_raises hin (.rxErr hp)⟩

/-- Settles O28: such an event is taken and dropped. -/
theorem unansweredEventsChangeNothing : Obligations.UnansweredEventsChangeNothing :=
  fun _ i _ hin ht ha => step_of_transition hin (.dropped i ht ha)

end Sys2Proof.Machine
end

section
/-! A received buffer of each class in the two reading phases: it is stored, and its class and the phase decide what
follows. -/

namespace Sys2Proof.Machine

variable {s : State} {i : Instr} {x : Result}

/-- A row that stores its transfer `b` and then raises `x` does nothing else. -/
theorem exec_raises_holding {b : List Byte} (h : exec i s = .next (raise x (holding b s))) :
    ∃ t, exec i s = .next t ∧ Raises x s t ∧ HoldsTransfer b t :=
  ⟨_, h, ⟨rfl, rfl, rfl, rfl, ⟨rfl, rfl, rfl, rfl, rfl, rfl, rfl⟩⟩, ⟨rfl, (holding_holds b s).rxBuf⟩⟩

/-- 42_engine_send.md R153, read backwards. -/
theorem correlates_eq_false {p : List Byte} {c : Byte}
    (h : p.length < 2 ∨ byteAt p 0 ≠ 0xD7 ∨ byteAt p 1 ≠ c + 1) : correlates p c = false := by
  rw [Bool.eq_false_iff, ne_eq, correlates_iff, inc8_eq]
  rintro ⟨d, rfl⟩
  rcases h with hlen | hdir | hcode
  · simp at hlen
  · exact hdir rfl
  · exact hcode rfl

/-- 42_engine_send.md R150. -/
theorem exec_rsp_mismatch (p rest : List Byte) (hp : s.phase = .rspWait)
    (hf : (normalFrame p rest).length ≤ s.cfg.bufCap) (hc : correlates p s.reqCode = false) :
    exec (.rsp p rest) s = .next (raise .mismatch (holding (normalFrame p rest) s)) := by
  simp [exec, execRsp, receive_rspWait _ _ _ _ hp hf, hc]

/-- 42_engine_send.md R151. -/
theorem exec_rsp_delivered (d rest : List Byte) (hp : s.phase = .rspWait)
    (hf : 8 + d.length + rest.length ≤ s.cfg.bufCap) :
    exec (.rsp (dirRx :: inc8 s.reqCode :: d) rest) s =
      .next (delivered d (holding (normalFrame (dirRx :: inc8 s.reqCode :: d) rest) s)) := by
  have hc : correlates (dirRx :: inc8 s.reqCode :: d) s.reqCode = true := (correlates_iff _ _).2 ⟨d, rfl⟩
  have hb : (normalFrame (dirRx :: inc8 s.reqCode :: d) rest).length ≤ s.cfg.bufCap := by
    simp only [normalFrame_length, List.length_cons]
    omega
  have hd : d.length ≤ s.cfg.bufCap - 8 := by omega
  simp only [exec, execRsp, receive_rspWait _ _ _ _ hp hb, hc, if_true]
  exact deliver_of_fits _ _ d _ hd

/-- Settles O23: the transfer is stored, and the phase decides between the second read and `MISMATCH`. -/
theorem ackOpensTheSecondReadOnlyOnce : Obligations.AckOpensTheSecondReadOnlyOnce := by
  intro s rest hf
  rw [← List.length_append] at hf
  refine ⟨fun hp => ?_, fun hp => exec_raises_holding (receive_rspWait _ _ _ _ hp hf)⟩
  exact ⟨_, receive_ackWait _ _ _ _ hp hf, ⟨rfl, rfl, rfl, rfl, rfl, ⟨rfl, rfl, rfl, rfl, rfl, rfl, rfl⟩⟩,
    ⟨rfl, (holding_holds _ s).rxBuf⟩⟩

/-- Settles O24: in `ACK_WAIT` the payload is not looked at. -/
theorem responseToTheFirstReadIsUnexpected : Obligations.ResponseToTheFirstReadIsUnexpected := by
  intro s p rest hp hf
  rw [← normalFrame_length] at hf
  exact exec_raises_holding (receive_ackWait _ _ _ _ hp hf)

/-- Settles O25: the payload correlates, its data fits `RSP_DATA`, and its length fits `RSP_LEN`. -/
theorem correlatedResponseIsDelivered : Obligations.CorrelatedResponseIsDelivered := by
  intro s d rest hp hd hf
  rw [← inc8_eq]
  exact ⟨_, exec_rsp_delivered d rest hp hf, rfl, rfl, toNat_ofNat_length d (by omega),
    fun a h => by simp [Memory.read_fill, h], rfl, ⟨rfl, rfl, rfl, rfl, rfl, rfl, rfl⟩,
    ⟨rfl, (holding_holds _ s).rxBuf⟩⟩

/-- Settles O26: each of the three causes makes the correlator fail. -/
theorem uncorrelatedResponseIsMismatch : Obligations.UncorrelatedResponseIsMismatch := by
  intro s p rest hp hf hc
  rw [← normalFrame_length] at hf
  exact exec_raises_holding (exec_rsp_mismatch p rest hp hf (correlates_eq_false hc))

/-- Settles O27: the transfer is stored, and the phase names the failure. -/
theorem malformedBuffersFailByPhase : Obligations.MalformedBuffersFailByPhase :=
  fun _ _ hf =>
    ⟨fun hp => exec_raises_holding (receive_ackWait _ _ _ _ hp hf),
      fun hp => exec_raises_holding (receive_rspWait _ _ _ _ hp hf)⟩

end Sys2Proof.Machine
end

section
/-! A whole exchange: each answer to the outstanding request either ends the exchange or asks for the next read, and
there is no third read. -/

namespace Sys2Proof.Machine

variable {s t : State} {i : Input} {later : List Input}

/-- An answer that ends the exchange (42_engine_send.md R157). -/
structure EndsExchange (s t : State) : Prop where
  phase : t.phase = .idle
  result : t.result ≠ .none
  emitted : ∃ d, t.emitted = s.emitted ++ [.done t.result d]

/-- An answer that asks for the next read (42_engine_send.md R139, R145). -/
structure ReadsOn (s t : State) : Prop where
  moves : MovesToRead s t
  emitted : t.emitted = s.emitted ++ [.rxReq s.cfg.bufCap s.timeout]
  cfg : t.cfg = s.cfg
  timeout : t.timeout = s.timeout
  inbox : t.inbox = s.inbox

theorem fromTransport_of_answersRequest {p : Phase} (h : answersRequest p i = true) : fromTransport i = true := by
  cases i with
  | host | transportOpen | transportClose => cases p <;> cases h
  | txOk | txErr | rxData | rxTimeout | rxErr => rfl

/-- 42_engine_send.md R139 to R151. -/
theorem Transition.answer_cases (h : Transition s i t) (ha : answersRequest s.phase i = true) :
    EndsExchange s t ∨ ReadsOn s t := by
  have ht := fromTransport_of_answersRequest ha
  cases h with
  | unknownOpsel | refusedBusy | accepted | badCommand | setto | rdres | reset | transportOpen | transportClose =>
    cases ht
  | dropped _ _ hna => rw [hna] at ha; cases ha
  | txOk hp => exact .inr ⟨.inl ⟨hp, rfl⟩, rfl, rfl, rfl, rfl⟩
  | ackFirst _ hp => exact .inr ⟨.inr ⟨hp, rfl⟩, rfl, rfl, rfl, rfl⟩
  | txErr | rxTimeout | rxErr | ackSecond | unexpected | mismatch | delivered | badAck | badResponse =>
    exact .inl ⟨rfl, nofun, _, rfl⟩

/-- Under the invariant the step on an answer that fits does not stop, so it is one of the two. -/
theorem step_answer_cases (hs : s.Inv) (hin : s.inbox = i :: later) (ha : answersRequest s.phase i = true)
    (hf : i.Fits s.cfg) :
    ∃ t, step s = .next t ∧ t.Inv ∧ (EndsExchange s t ∨ ReadsOn { s with inbox := later } t) := by
  have hs' : State.Inv { s with inbox := later } := { hs with }
  obtain ⟨t, ht⟩ := handle_answers hs' hf
  have htr := handle_transition _ t i ht
  refine ⟨t, step_of_transition hin htr, htr.inv hs', (htr.answer_cases ha).imp_left fun h => ?_⟩
  exact ⟨h.phase, h.result, h.emitted⟩

/-! ## Runs -/

/-- At most `n` steps bring the block back to `IDLE`: one read request for each step but the last, then `Done`. -/
abbrev CompletesWithin (n : Nat) (s : State) : Prop :=
  ∃ k t x d, k < n ∧ core.run (k + 1) s = .next t ∧ t.phase = .idle ∧ t.result = x ∧ x ≠ .none ∧
    t.emitted = s.emitted ++ List.replicate k (.rxReq s.cfg.bufCap s.timeout) ++ [.done x d]

theorem run_succ (n : Nat) (h : step s = .next t) : core.run (n + 1) s = core.run n t := by
  have hstep : core.step s = .next t := h
  simp [Host.Core.run, hstep]

theorem EndsExchange.completesWithin (h : EndsExchange s t) (hstep : step s = .next t) (n : Nat) :
    CompletesWithin (n + 1) s := by
  obtain ⟨d, hd⟩ := h.emitted
  exact ⟨0, t, t.result, d, Nat.succ_pos n, run_succ 0 hstep, h.phase, rfl, h.result, by simpa using hd⟩

/-- One read request more, and one step more. -/
theorem ReadsOn.completesWithin {n : Nat} (h : ReadsOn { s with inbox := later } t) (hstep : step s = .next t)
    (ht : CompletesWithin n t) : CompletesWithin (n + 1) s := by
  obtain ⟨k, u, x, d, hk, hrun, hphase, hresult, hx, hem⟩ := ht
  refine ⟨k + 1, u, x, d, Nat.succ_lt_succ hk, (run_succ (k + 1) hstep).trans hrun, hphase, hresult, hx, ?_⟩
  rw [hem, h.cfg, h.timeout, h.emitted, List.replicate_succ]
  simp

/-! ## The three waiting phases, last to first -/

theorem completesWithin_of_rspWait (hs : s.Inv) (hp : s.phase = .rspWait) (hin : s.inbox = i :: later)
    (ha : answersRequest .rspWait i = true) (hf : i.Fits s.cfg) : CompletesWithin 1 s := by
  obtain ⟨t, hstep, -, hend | hread⟩ := step_answer_cases hs hin (hp ▸ ha) hf
  · exact hend.completesWithin hstep 0
  · rcases hread.moves with ⟨hw, -⟩ | ⟨hw, -⟩ <;> exact nomatch hp.symm.trans hw

theorem completesWithin_of_ackWait {r : Input} (hs : s.Inv) (hp : s.phase = .ackWait)
    (hin : s.inbox = r :: i :: later) (ha : answersRequest .ackWait r = true)
    (ha' : answersRequest .rspWait i = true) (hf : r.Fits s.cfg) (hf' : i.Fits s.cfg) : CompletesWithin 2 s := by
  obtain ⟨t, hstep, ht, hend | hread⟩ := step_answer_cases hs hin (hp ▸ ha) hf
  · exact hend.completesWithin hstep 1
  · rcases hread.moves with ⟨hw, -⟩ | ⟨-, hw⟩
    · exact nomatch hp.symm.trans hw
    · exact hread.completesWithin hstep (completesWithin_of_rspWait ht hw hread.inbox ha' (hread.cfg ▸ hf'))

/-- Settles O42: the answer to the write ends the exchange or leads to `ACK_WAIT`, and from there the answer to the
read ends it or leads to `RSP_WAIT`, where every answer ends it. -/
theorem exchangesComplete : Obligations.ExchangesComplete := by
  intro s w r r' later hs hp hin hw hr hr' hf hf'
  have hfw : w.Fits s.cfg := by
    cases w with
    | rxData => cases hw
    | _ => trivial
  obtain ⟨t, hstep, ht, hend | hread⟩ := step_answer_cases hs hin (hp ▸ hw) hfw
  · exact hend.completesWithin hstep 2
  · rcases hread.moves with ⟨-, hq⟩ | ⟨hq, -⟩
    · exact hread.completesWithin hstep
        (completesWithin_of_ackWait ht hq hread.inbox hr hr' (hread.cfg ▸ hf) (hread.cfg ▸ hf'))
    · exact nomatch hp.symm.trans hq

end Sys2Proof.Machine
end

section
/-! The host port: `SETTO` in `IDLE`, `RDRES` and how long its answer stands, `RESET`, and an unknown `OPSEL`. -/

namespace Sys2Proof.Machine

variable {s t : State} {i : Input}

/-- Settles O15: none of the four operations has that `OPSEL`, so the transaction is refused. -/
theorem unknownOpselIsRefused : Obligations.UnknownOpselIsRefused := by
  intro s x later hin hx
  have hne : ∀ v : Byte, 1 ≤ v.toNat ∧ v.toNat ≤ 4 → x.opsel ≠ v := fun v hv he => hx (he ▸ hv)
  exact step_of_transition hin (.unknownOpsel x
    ⟨hne 0x01 (by decide), hne 0x02 (by decide), hne 0x03 (by decide), hne 0x04 (by decide)⟩)

/-! ## `SETTO` -/

/-- 43_host_port_ops.md R172. -/
theorem execSetto_idle (v : Word32) (h : s.phase = .idle) : execSetto v s = .next { s with timeout := v } :=
  if_neg fun hb => (busy_iff s).1 hb h

/-- 42_engine_send.md R139, R145: the one output of a step, where it is a read request, carries the `TIMEOUT` held. -/
theorem rxReq_carries_timeout {cap : Nat} {w : Word32} (h : step s = .next t)
    (he : t.emitted = s.emitted ++ [.rxReq cap w]) : w = s.timeout := by
  obtain ⟨out, hout, -, -, -, hcarries⟩ := requestsFollowThePhase s t h
  have hmem : .rxReq cap w ∈ out := by
    rw [List.append_cancel_left (hout.symm.trans he)]
    exact List.mem_singleton_self _
  exact (hcarries cap w hmem).2

/-- Settles O16: `SETTO` is not refused in `IDLE`, `TxOk` asks for the first read, and a read is always requested with
the `TIMEOUT` held. -/
theorem settoWritesTheTimeout : Obligations.SettoWritesTheTimeout := by
  intro s v hs
  refine ⟨execSetto_idle v hs, ?_, ?_⟩
  · rintro t later rfl hp hin
    exact ⟨_, step_of_transition hin (.txOk hp), rfl⟩
  · rintro t u cap w rfl hstep he
    exact rxReq_carries_timeout hstep he

/-! ## `RDRES` -/

/-- The tuple `RDRES` returns where `RSP_DATA` holds exactly `RSP_LEN` bytes (43_host_port_ops.md R174). -/
def rdresAnswer (s : State) : Output := .results (statusByte s) s.timeout s.rspLen (s.rspData.map Prod.snd)

theorem execRdres_of_inv (hs : s.Inv) : execRdres s = .next (emit (rdresAnswer s) s) := by
  rw [execRdres, memRead_of_dense .rspData s.rspLen.toNat s hs.rspFits hs.rspDense]
  rfl

/-- The bytes a dense space lists are the bytes read from it. -/
theorem Memory.Dense.read_eq {m : Memory} {n : Nat} (h : m.Dense n) (a : Nat) (ha : a < (m.map Prod.snd).length) :
    m.read a = some (m.map Prod.snd)[a] := by
  have hread := Memory.read_of_dense m 0 n (by simpa using h) a (by simpa using ha)
  simpa using hread

/-- Everything `RDRES` reports is kept; of `PHASE` it shows only whether it is `IDLE` (43_host_port_ops.md R175). -/
structure KeepsAnswer (s t : State) : Prop where
  idle : t.phase = .idle ↔ s.phase = .idle
  result : t.result = s.result
  timeout : t.timeout = s.timeout
  rspLen : t.rspLen = s.rspLen
  rspData : t.rspData = s.rspData

theorem KeepsAnswer.rdresAnswer_eq (h : KeepsAnswer s t) : rdresAnswer t = rdresAnswer s := by
  have hstatus : statusByte t = statusByte s :=
    BitVec.eq_of_toNat_eq (by simp only [statusByte_toNat, h.idle, h.result])
  rw [rdresAnswer, rdresAnswer, hstatus, h.timeout, h.rspLen, h.rspData]

/-- 43_host_port_ops.md R174, 20_memory.md R66: of the transitions that write something `RDRES` reports, an accepted
`SEND` or `SETTO` and `RESET` are excluded by the event, and those that complete the exchange by the phase. -/
theorem Transition.keepsAnswer (h : Transition s i t)
    (hhost : ∀ x, i = .host x → x.opsel ≠ 0x04 ∧ (s.phase = .idle → x.opsel ≠ 0x01 ∧ x.opsel ≠ 0x02))
    (hflight : s.phase ≠ .idle → t.phase ≠ .idle) : KeepsAnswer s t := by
  cases h with
  | unknownOpsel | refusedBusy | rdres | dropped | transportOpen | transportClose => exact ⟨.rfl, rfl, rfl, rfl, rfl⟩
  | accepted x h1 hp | badCommand x h1 hp => exact absurd h1 ((hhost x rfl).2 hp).1
  | setto x h2 hp => exact absurd h2 ((hhost x rfl).2 hp).2
  | reset x h4 => exact absurd h4 (hhost x rfl).1
  | txOk hp | ackFirst _ hp => exact ⟨by rw [hp]; exact ⟨nofun, nofun⟩, rfl, rfl, rfl, rfl⟩
  | txErr hp | ackSecond _ hp | unexpected _ _ hp | mismatch _ _ hp | delivered _ _ hp | badAck _ hp
  | badResponse _ hp => exact absurd rfl (hflight (by rw [hp]; nofun))
  | rxTimeout hp | rxErr hp => exact absurd rfl (hflight (by rcases hp with hp | hp <;> rw [hp] <;> nofun))

/-- Settles O17: the answer is read off the registers, and a step of the kind described keeps each of them. -/
theorem rdresReturnsTheResult : Obligations.RdresReturnsTheResult := by
  intro s hs
  refine ⟨statusByte s, s.rspData.map Prod.snd, execRdres_of_inv hs, statusByte_toNat s, ?_, hs.rspDense.read_eq, ?_⟩
  · rw [List.length_map, Memory.dense_length _ _ hs.rspDense]
  · intro t hstep hhost hflight
    have hkeeps : KeepsAnswer s t := by
      rcases step_cases s t hstep with ⟨-, rfl⟩ | ⟨i, later, hin, htr⟩
      · exact ⟨.rfl, rfl, rfl, rfl, rfl⟩
      · exact { htr.keepsAnswer (fun x hx => hhost x later (hx ▸ hin)) hflight with }
    calc exec .rdres t = .next (emit (rdresAnswer t) t) := execRdres_of_inv (stepKeepsTheInvariant s t hs hstep)
      _ = .next (emit (rdresAnswer s) t) := by rw [hkeeps.rdresAnswer_eq]

/-- 43_host_port_ops.md R175. -/
theorem rdresAnswer_in_flight (hs : s.Inv) (hp : s.phase ≠ .idle) : rdresAnswer s = .results 0x80 s.timeout 0 [] := by
  have hres : s.result = .none := hs.flightResult hp
  have hlen : s.rspLen = 0 := hs.okHasData (by rw [hres]; nofun)
  have hdata : s.rspData = [] := List.eq_nil_of_length_eq_zero (by
    rw [Memory.dense_length _ _ hs.rspDense, hlen]; rfl)
  have hstatus : statusByte s = 0x80 := BitVec.eq_of_toNat_eq (by
    rw [statusByte_toNat, if_neg hp, hres]; rfl)
  rw [rdresAnswer, hstatus, hlen, hdata, List.map_nil]

/-- Settles O18: in flight `RESULT` is `NONE`, so there is no response to report. -/
theorem rdresInFlightShowsOnlyBusy : Obligations.RdresInFlightShowsOnlyBusy := by
  intro s hs hp
  calc exec .rdres s = .next (emit (rdresAnswer s) s) := execRdres_of_inv hs
    _ = .next (emit (.results 0x80 s.timeout 0 []) s) := by rw [rdresAnswer_in_flight hs hp]

/-! ## `RESET` -/

/-- Settles O19: the four registers are written outright, and `TIMEOUT_DEFAULT` is the parameter power-on takes it
from. -/
theorem resetRestoresTheResetValues : Obligations.ResetRestoresTheResetValues := fun _ =>
  ⟨_, rfl, rfl, rfl, rfl, rfl, rfl, rfl, rfl, fun hcfg => congrArg Config.timeoutDefault hcfg, rfl, rfl, rfl⟩

end Sys2Proof.Machine
end

section
/-! The host's Polling Loop: what each class of an `OK` result makes of a loop in `Polling`, and that `Found` stays. -/

namespace Sys2Proof.Machine

variable {p : HostParams} {l : HostLoop} {data idm pmm : List Byte}

/-- The bytes between a known beginning and a known end. -/
theorem slice_append_middle (before mid after : List Byte) :
    slice (before ++ mid ++ after) before.length mid.length = mid := by
  rw [slice, List.append_assoc, List.drop_left, List.take_left]

/-! ## The class of a result (44_host_polling_loop.md R187) -/

theorem classifyResult_sentinel : classifyResult p noCardSentinel = .noCard := if_pos (.inl rfl)

/-- A result that does not begin with the sentinel is "no card" in neither reading (91_not_in_source.md N6), so the
signature decides. -/
theorem classifyResult_typeF (hno : ¬ noCardSentinel <+: data) (h0 : data[p.typeFIdx0]? = some p.typeFSig0)
    (h1 : data[p.typeFIdx1]? = some p.typeFSig1) (hlen : p.idmOff + 16 ≤ data.length) :
    classifyResult p data = .typeF (slice data p.idmOff 8) (slice data (p.idmOff + 8) 8) := by
  have hno' : ¬ (data = noCardSentinel ∨ (p.sentinelIsPrefix = true ∧ noCardSentinel <+: data)) := by
    rintro (heq | ⟨-, hpre⟩)
    · exact hno (heq ▸ List.prefix_rfl)
    · exact hno hpre
  rw [classifyResult, if_neg hno', if_pos ⟨h0, h1, hlen⟩]

/-- A Type-F result laid out as R188 says is split into exactly its two identifiers. -/
theorem classifyResult_typeF_card {before after : List Byte} (hb : before.length = p.idmOff) (hi : idm.length = 8)
    (hm : pmm.length = 8) (hno : ¬ noCardSentinel <+: before ++ idm ++ pmm ++ after)
    (h0 : (before ++ idm ++ pmm ++ after)[p.typeFIdx0]? = some p.typeFSig0)
    (h1 : (before ++ idm ++ pmm ++ after)[p.typeFIdx1]? = some p.typeFSig1) :
    classifyResult p (before ++ idm ++ pmm ++ after) = .typeF idm pmm := by
  have hlen : p.idmOff + 16 ≤ (before ++ idm ++ pmm ++ after).length := by
    simp only [List.length_append]; omega
  have hidm : slice (before ++ idm ++ pmm ++ after) p.idmOff 8 = idm := by
    rw [← hb, ← hi, List.append_assoc (before ++ idm), slice_append_middle]
  have hpmm : slice (before ++ idm ++ pmm ++ after) (p.idmOff + 8) 8 = pmm := by
    have hoff : p.idmOff + 8 = (before ++ idm).length := by rw [List.length_append, hb, hi]
    rw [hoff, ← hm, slice_append_middle]
  rw [classifyResult_typeF hno h0 h1 hlen, hidm, hpmm]

/-! ## The loop between two exchanges (44_host_polling_loop.md R185, R187) -/

theorem loopOnDone_noCard (hl : l.st = .polling) (hc : classifyResult p data = .noCard) :
    loopOnDone p .ok data l = ⟨.polling, l.iterations + 1, 0⟩ := by
  simp only [loopOnDone, hl, hc, if_true]

theorem loopOnDone_typeF (hl : l.st = .polling) (hc : classifyResult p data = .typeF idm pmm) :
    loopOnDone p .ok data l = ⟨.found idm pmm, l.iterations + 1, 0⟩ := by
  simp only [loopOnDone, hl, hc, if_true]

theorem loopOnDone_found (r : Result) (hl : l.st = .found idm pmm) : loopOnDone p r data l = l := by
  simp only [loopOnDone, hl]

theorem loopAction_found (c : Config) (cancelled : Bool) (hl : l.st = .found idm pmm) :
    loopAction c p cancelled l = .report idm pmm := by
  simp only [loopAction, hl]

/-! ## The statements -/

/-- Settles O43: the sentinel is the first class R187 looks for. -/
theorem noCardKeepsPolling : Obligations.NoCardKeepsPolling :=
  fun _ _ hl => loopOnDone_noCard hl classifyResult_sentinel

/-- Settles O44: the result is classified as Type F with its two identifiers, and a loop in `Found` reports those it
holds. -/
theorem typeFCardIsReported : Obligations.TypeFCardIsReported := by
  intro c p l before idm pmm after cancelled hl hb hi hm hno h0 h1
  have hclass : classifyResult p (before ++ idm ++ pmm ++ after) = .typeF idm pmm :=
    classifyResult_typeF_card hb hi hm hno h0 h1
  rw [loopOnDone_typeF hl hclass]
  exact loopAction_found c cancelled rfl

/-- Settles O45: neither function of the loop looks at anything else in `Found`. -/
theorem foundIsTerminal : Obligations.FoundIsTerminal :=
  fun c _ _ _ _ hl => ⟨fun r _ => loopOnDone_found r hl, fun cancelled => loopAction_found c cancelled hl⟩

end Sys2Proof.Machine
end

section
/-! The end of an exchange: which transitions emit `Done`, and what one that fails leaves as it was. -/

namespace Sys2Proof.Machine

variable {s t : State} {i : Input} {x : Result}

/-! ## What a failure changes -/

/-- The state an event raises its failure in: a received buffer is stored first (10_state.md R34). -/
def storing (i : Input) (s : State) : State :=
  match i with
  | .rxData b => holding b s
  | _ => s

theorem raise_storing_raises (x : Result) (i : Input) (s : State) : Raises x s (raise x (storing i s)) := by
  cases i with
  | rxData b => exact ⟨rfl, rfl, rfl, rfl, ⟨rfl, rfl, rfl, rfl, rfl, rfl, rfl⟩⟩
  | _ => exact raise_raises x s

theorem raise_storing_holdsTransfer (x : Result) (b : List Byte) (s : State) :
    HoldsTransfer b (raise x (storing (.rxData b) s)) :=
  ⟨rfl, (holding_holds b s).rxBuf⟩

theorem raise_storing_keepsTransfer (x : Result) (s : State) (hi : ∀ b, i ≠ .rxData b) :
    KeepsTransfer s (raise x (storing i s)) := by
  cases i with
  | rxData b => exact absurd rfl (hi b)
  | _ => exact raise_keepsTransfer x s

/-! ## Which transitions emit `Done` -/

/-- 42_engine_send.md R157: a transition raises a failure, delivers a result, or emits no `Done`; in the last case only
`RESET` takes a waiting phase to `IDLE`. -/
theorem Transition.done_cases (h : Transition s i t) :
    (∃ x, t = raise x (storing i s) ∧ x ≠ .none) ∨
    (∃ b d, t = Machine.delivered d (holding b s)) ∨
    (∃ out, t.emitted = s.emitted ++ out ∧ out.length ≤ 1 ∧ (∀ r d, .done r d ∉ out) ∧
      (s.phase ≠ .idle → t.phase = .idle → ∃ x, i = .host x ∧ x.opsel = 0x04)) := by
  cases h with
  | badCommand | txErr | rxTimeout | rxErr | ackSecond | unexpected | mismatch | badAck | badResponse =>
    exact .inl ⟨_, rfl, nofun⟩
  | delivered b d => exact .inr (.inl ⟨b, d, rfl⟩)
  | unknownOpsel | refusedBusy | rdres =>
    exact .inr (.inr ⟨[_], rfl, Nat.le_refl 1, by simp, fun hs ht => absurd ht hs⟩)
  | setto | dropped | transportOpen | transportClose =>
    exact .inr (.inr ⟨[], (List.append_nil _).symm, Nat.zero_le 1, nofun, fun hs ht => absurd ht hs⟩)
  | accepted _ _ hp => exact .inr (.inr ⟨[_], rfl, Nat.le_refl 1, by simp, fun hs => absurd hp hs⟩)
  | txOk | ackFirst => exact .inr (.inr ⟨[_], rfl, Nat.le_refl 1, by simp, nofun⟩)
  | reset x h4 _ ht =>
    cases ht
    exact .inr (.inr ⟨[], (List.append_nil _).symm, Nat.zero_le 1, nofun, fun _ _ => ⟨x, rfl, h4⟩⟩)

theorem Raises.endsExchange (h : Raises x s t) (hx : x ≠ .none) : EndsExchange s t :=
  ⟨h.phase, h.result ▸ hx, [], h.result.symm ▸ h.emitted⟩

theorem delivered_holding_endsExchange (b d : List Byte) (s : State) :
    EndsExchange s (delivered d (holding b s)) :=
  ⟨rfl, nofun, d, rfl⟩

/-! ## The statements -/

/-- The outputs `out` of a step from `s` to `t` mark the end of the exchange: a `Done` tells its result, and without one
a waiting phase is not left for `IDLE` (42_engine_send.md R157). -/
abbrev MarksTheEnd (s t : State) (out : List Output) : Prop :=
  (∀ r d, .done r d ∈ out → t.phase = .idle ∧ t.result = r ∧ r ≠ .none) ∧
  (s.phase ≠ .idle → t.phase = .idle →
    (∃ r d, out = [.done r d]) ∨ ∃ x later, s.inbox = .host x :: later ∧ x.opsel = 0x04)

theorem EndsExchange.marksTheEnd {later : List Input} (h : EndsExchange { s with inbox := later } t) :
    ∃ out, t.emitted = s.emitted ++ out ∧ out.length ≤ 1 ∧ MarksTheEnd s t out := by
  obtain ⟨d, hd⟩ := h.emitted
  refine ⟨[.done t.result d], hd, Nat.le_refl 1, fun r d' hm => ?_, fun _ _ => .inl ⟨_, d, rfl⟩⟩
  cases List.mem_singleton.1 hm
  exact ⟨h.phase, rfl, h.result⟩

/-- Settles O38: a transition that raises or delivers ends the exchange, and every other step emits no `Done`. -/
theorem doneMarksTheEndOfAnExchange : Obligations.DoneMarksTheEndOfAnExchange := by
  intro s t h
  rcases step_cases s t h with ⟨-, rfl⟩ | ⟨i, later, hin, htr⟩
  · exact ⟨[], (List.append_nil _).symm, Nat.zero_le 1, nofun, fun hs ht => absurd ht hs⟩
  · rcases htr.done_cases with ⟨x, rfl, hx⟩ | ⟨b, d, rfl⟩ | ⟨out, he, hl, hno, hp⟩
    · exact ((raise_storing_raises x i _).endsExchange hx).marksTheEnd
    · exact (delivered_holding_endsExchange b d _).marksTheEnd
    · refine ⟨out, he, hl, fun r d hm => absurd hm (hno r d), fun hs ht => .inr ?_⟩
      obtain ⟨x, rfl, h4⟩ := hp hs ht
      exact ⟨x, later, hin, h4⟩

/-- A transition whose output is a `Done` with a result other than `OK` raises that result. -/
theorem Transition.raises_of_done {d : List Byte} (h : Transition s i t) (he : t.emitted = s.emitted ++ [.done x d])
    (hx : x ≠ .ok) : d = [] ∧ t = raise x (storing i s) := by
  rcases h.done_cases with ⟨x', rfl, -⟩ | ⟨b, d', rfl⟩ | ⟨out, hout, -, hno, -⟩
  · have hraised := (raise_storing_raises x' i s).emitted
    cases List.append_cancel_left (hraised.symm.trans he)
    exact ⟨rfl, rfl⟩
  · cases List.append_cancel_left he
    exact absurd rfl hx
  · cases List.append_cancel_left (hout.symm.trans he)
    exact absurd List.mem_cons_self (hno x d)

/-- Settles O40: such a step is a transition that raises, from the state its event's transfer is stored in. -/
theorem failuresSetTheStatusAndKeepTheCommand : Obligations.FailuresSetTheStatusAndKeepTheCommand := by
  intro s t x d h he hx
  rcases step_cases s t h with ⟨-, rfl⟩ | ⟨i, later, hin, htr⟩
  · exact absurd (List.self_eq_append_right.1 he) (List.cons_ne_nil _ _)
  · obtain ⟨hd, rfl⟩ := htr.raises_of_done he hx
    obtain ⟨hphase, hresult, hlen, -, hkeep⟩ := raise_storing_raises x i { s with inbox := later }
    refine ⟨hd, hresult, hlen, hphase, hkeep.timeout, hkeep.reqCode, hkeep.reqLen, hkeep.reqData, hkeep.cfg,
      hkeep.freeCount, by rw [hkeep.inbox, hin]; rfl, fun b later' hb => ?_, fun hb => ?_⟩
    · obtain ⟨rfl, -⟩ := List.cons.inj (hin.symm.trans hb)
      exact raise_storing_holdsTransfer x b _
    · obtain ⟨hn, hbuf⟩ := raise_storing_keepsTransfer x { s with inbox := later } fun b hi => hb b later (hi ▸ hin)
      exact ⟨hn, hbuf⟩

end Sys2Proof.Machine
end

section
/-! The state after reset, and the Host's opening and closing of the Transport (70_reset_and_hazards.md). -/

namespace Sys2Proof.Machine

variable {s : State}

/-! ## Reset -/

/-- 10_state.md R28: nothing in flight and no result yet is the `STATUS` 00. -/
theorem statusByte_idle_none (hp : s.phase = .idle) (hr : s.result = .none) : statusByte s = 0x00 :=
  BitVec.eq_of_toNat_eq (by rw [statusByte_toNat, if_pos hp, hr]; rfl)

/-- Settles O20: the registers are written outright, and `STATUS` is that of `IDLE` without a result. -/
theorem resetStateHasTheSpecValues : Obligations.ResetStateHasTheSpecValues :=
  ⟨rfl, rfl, rfl, rfl, statusByte_idle_none rfl rfl⟩

theorem defaultConfig_ok : defaultConfig.Ok := by decide

/-- Settles O31: every space is empty, the default parameters meet their constraints, and in `IDLE` the clauses about an
exchange in flight say nothing. -/
theorem invariantHoldsAtReset : Obligations.InvariantHoldsAtReset where
  cfgOk := defaultConfig_ok
  reqDense := rfl
  reqFits := Nat.zero_le _
  rspDense := rfl
  rspFits := Nat.zero_le _
  rxDense := rfl
  rxFits := Nat.zero_le _
  okHasData := fun _ => rfl
  flightResult := fun h => absurd rfl h
  flightRequest := fun h => absurd rfl h
  flightTransfer := nofun

/-! ## Opening and closing the Transport -/

/-- Settles O29: either event is taken by a transition that leaves the rest of the state, so a run goes on from there. -/
theorem transportOpenAndCloseChangeNothing : Obligations.TransportOpenAndCloseChangeNothing := by
  intro s i later hin hi
  have hstep : step s = .next { s with inbox := later } := by
    rcases hi with rfl | rfl
    · exact step_of_transition hin .transportOpen
    · exact step_of_transition hin .transportClose
  exact ⟨hstep, fun n => run_succ n hstep⟩

end Sys2Proof.Machine
end
